-- ==== Sys2Proof/Word.lean ====
section
/-! DEFINITION. The machine's word and the names of the two line levels (00_scope.md R5, R6). -/

namespace Sys2Proof

/-- A timer count, a timestamp or a payload: 32 bits, and its arithmetic is modulo 2^32
(00_scope.md R5 "timer count width", R6 `u32`). -/
abbrev Word := BitVec 32

/-- A line level: `true` is active (the bus is pulled low), `false` is idle (00_scope.md R6). -/
abbrev Level := Bool

end Sys2Proof
end

