-- ==== Sys2Proof/Syntax.lean ====
section
/-! DEFINITION. The thirteen operations of 30_encoding.md R62 with their operands: one constructor per row of
spec/opcode_table.json, in the table's order. -/

namespace Sys2Proof

/-- What the `kind` field of a `SEND` names (30_encoding.md R64). `reserved` is a code that names no sendable
kind, 6 to 15. -/
inductive KindField where
  | none
  | backward
  | backToBack
  | forward
  | query
  | corrupt
  | reserved (code : BitVec 4)
  deriving DecidableEq, Repr

/-- The operations: seven host commands, then six hardware events (30_encoding.md R62). -/
inductive Instr where
  /-- `SEND(kind, prio, length, repeat, data)`. -/
  | send (kind : KindField) (prio : BitVec 4) (length : BitVec 8) (rep : BitVec 8) (data : Word)
  /-- `SEQ_START`. -/
  | seqStart
  /-- `SEQ_NEXT(period_us)`. -/
  | seqNext (periodUs : Word)
  /-- `SEQ_EXECUTE`. -/
  | seqExecute
  /-- `REQ_STATUS`. -/
  | reqStatus
  /-- `TRY_RECEIVE`. -/
  | tryReceive
  /-- `IS_TX_IDLE`. -/
  | isTxIdle
  /-- `RX_EDGE(t_cap, level)`, `level` the bus level after the transition. -/
  | rxEdge (tCap : Word) (level : Level)
  /-- `RX_STOPBIT_MATCH`. -/
  | rxStopbitMatch
  /-- `RX_PERIOD_MATCH`. -/
  | rxPeriodMatch
  /-- `RX_QUERY_MATCH`. -/
  | rxQueryMatch
  /-- `TX_MATCH`. -/
  | txMatch
  /-- `RESET`. -/
  | reset
  deriving DecidableEq, Repr

end Sys2Proof
end

