-- ==== Sys2Proof/WellFormed.lean ====
section
/-! DEFINITION. Which terms of the operation type are operations of the block. -/

namespace Sys2Proof

/-- A reserved kind is one of the codes 6 to 15 (30_encoding.md R64); every other kind has a code of its own. -/
def KindField.wellFormed : KindField → Bool
  | .none => true
  | .backward => true
  | .backToBack => true
  | .forward => true
  | .query => true
  | .corrupt => true
  | .reserved code => decide (6 ≤ code.toNat)

/-- Every operand of every operation may take every value of its field (30_encoding.md R63: nothing but `op` can
make a word illegal at decode time); only the kind of a `SEND` has two ways to be written, and this keeps one. -/
def Instr.wellFormed : Instr → Bool
  | .send kind _ _ _ _ => kind.wellFormed
  | .seqStart => true
  | .seqNext _ => true
  | .seqExecute => true
  | .reqStatus => true
  | .tryReceive => true
  | .isTxIdle => true
  | .rxEdge _ _ => true
  | .rxStopbitMatch => true
  | .rxPeriodMatch => true
  | .rxQueryMatch => true
  | .txMatch => true
  | .reset => true

end Sys2Proof
end

