-- ==== Sys2Proof/Decode.lean ====
section
/-! DEFINITION. The encodings of 30_encoding.md: the 64-bit command word (R61, R62), the 6-bit event vector with its
arguments on side inputs (R62, R69, R70), their decoder, and the encoder written from the same tables. -/

namespace Sys2Proof

/-- Why a presented word selects no operation. -/
inductive DecodeError where
  /-- A command word whose `op` is 0x0 or 0x8 to 0xF (R63). -/
  | reservedOp (op : BitVec 4)
  /-- An event vector with no bit set (R71). -/
  | noEvent
  /-- A word of neither format: its width is not that of a command word or of an event vector (R60). -/
  | noSuchFormat
  deriving DecidableEq, Repr

/-- The event vector (bit positions: R70) and the arguments `RX_EDGE` reads from its side inputs (R69). -/
structure EventInput where
  vec : BitVec 6
  tCap : Word
  level : Level
  deriving DecidableEq, Repr

/-- A presented operation in either format (R60). -/
inductive Encoded where
  | cmd (w : BitVec 64)
  | evt (e : EventInput)
  deriving DecidableEq, Repr

/-- Frame kind codes (R64). -/
def kindOfCode (c : BitVec 4) : KindField :=
  match c.toNat with
  | 0 => .none
  | 1 => .backward
  | 2 => .backToBack
  | 3 => .forward
  | 4 => .query
  | 5 => .corrupt
  | _ => .reserved c

/-- The fields of a command word (R61). -/
def opField (w : BitVec 64) : BitVec 4 := w.extractLsb' 60 4
def kindField (w : BitVec 64) : BitVec 4 := w.extractLsb' 56 4
def prioField (w : BitVec 64) : BitVec 4 := w.extractLsb' 52 4
def lengthField (w : BitVec 64) : BitVec 8 := w.extractLsb' 40 8
def repeatField (w : BitVec 64) : BitVec 8 := w.extractLsb' 32 8
def dataField (w : BitVec 64) : BitVec 32 := w.extractLsb' 0 32

/-- Decoding a command word: `op` alone selects the operation, reserved bits are ignored (R61, R63). -/
def decodeCmd (w : BitVec 64) : Except DecodeError Instr :=
  match (opField w).toNat with
  | 1 => .ok (.send (kindOfCode (kindField w)) (prioField w) (lengthField w) (repeatField w) (dataField w))
  | 2 => .ok .seqStart
  | 3 => .ok (.seqNext (dataField w))
  | 4 => .ok .seqExecute
  | 5 => .ok .reqStatus
  | 6 => .ok .tryReceive
  | 7 => .ok .isTxIdle
  | _ => .error (.reservedOp (opField w))

/-- Decoding an event vector: the operation that takes effect FIRST at the instant, in the order of
60_exceptions.md R241 (RESET, TX_MATCH, RX_EDGE, RX_STOPBIT_MATCH, RX_PERIOD_MATCH, RX_QUERY_MATCH). -/
def decodeEvt (e : EventInput) : Except DecodeError Instr :=
  if e.vec.getLsbD 5 then .ok .reset
  else if e.vec.getLsbD 4 then .ok .txMatch
  else if e.vec.getLsbD 0 then .ok (.rxEdge e.tCap e.level)
  else if e.vec.getLsbD 1 then .ok .rxStopbitMatch
  else if e.vec.getLsbD 2 then .ok .rxPeriodMatch
  else if e.vec.getLsbD 3 then .ok .rxQueryMatch
  else .error .noEvent

/-- Decoding is total: every presented word is an operation or is rejected by name. -/
def decode : Encoded → Except DecodeError Instr
  | .cmd w => decodeCmd w
  | .evt e => decodeEvt e

/-- The code of a kind (R64). -/
def codeOfKind : KindField → BitVec 4
  | .none => 0
  | .backward => 1
  | .backToBack => 2
  | .forward => 3
  | .query => 4
  | .corrupt => 5
  | .reserved code => code

/-- A command word from its fields; bits 51:48 are reserved and a host writes 0 (R61). -/
def packCmd (op kind prio : BitVec 4) (length rep : BitVec 8) (data : BitVec 32) : BitVec 64 :=
  op ++ kind ++ prio ++ 0#4 ++ length ++ rep ++ data

/-- The bit of the event vector an operation stands at (R70); a command has none. -/
def eventBit : Instr → BitVec 6
  | .send _ _ _ _ _ => 0b000000
  | .seqStart => 0b000000
  | .seqNext _ => 0b000000
  | .seqExecute => 0b000000
  | .reqStatus => 0b000000
  | .tryReceive => 0b000000
  | .isTxIdle => 0b000000
  | .rxEdge _ _ => 0b000001
  | .rxStopbitMatch => 0b000010
  | .rxPeriodMatch => 0b000100
  | .rxQueryMatch => 0b001000
  | .txMatch => 0b010000
  | .reset => 0b100000

/-- The presented word of an operation; side inputs an event does not use are 0 (R61, R62, R69). -/
def encode : Instr → Encoded
  | .send kind prio length rep data => .cmd (packCmd 1 (codeOfKind kind) prio length rep data)
  | .seqStart => .cmd (packCmd 2 0 0 0 0 0)
  | .seqNext periodUs => .cmd (packCmd 3 0 0 0 0 periodUs)
  | .seqExecute => .cmd (packCmd 4 0 0 0 0 0)
  | .reqStatus => .cmd (packCmd 5 0 0 0 0 0)
  | .tryReceive => .cmd (packCmd 6 0 0 0 0 0)
  | .isTxIdle => .cmd (packCmd 7 0 0 0 0 0)
  | .rxEdge tCap level => .evt ⟨eventBit (.rxEdge tCap level), tCap, level⟩
  | .rxStopbitMatch => .evt ⟨eventBit .rxStopbitMatch, 0, false⟩
  | .rxPeriodMatch => .evt ⟨eventBit .rxPeriodMatch, 0, false⟩
  | .rxQueryMatch => .evt ⟨eventBit .rxQueryMatch, 0, false⟩
  | .txMatch => .evt ⟨eventBit .txMatch, 0, false⟩
  | .reset => .evt ⟨eventBit .reset, 0, false⟩

/-- A word as spec/opcode_table.json numbers its bits: a command word has 64 bits; an event vector has 6, in one
whole byte, and its side inputs lie above, all 0 (R60). -/
def tableWord (nbits w : Nat) : Except DecodeError Encoded :=
  if nbits = 64 then .ok (.cmd (BitVec.ofNat 64 w))
  else if (nbits = 8 ∨ nbits = 6) ∧ w < 64 then .ok (.evt ⟨BitVec.ofNat 6 w, 0, false⟩)
  else .error .noSuchFormat

/-- The operation the decoder reads from a table word. -/
def decodeTableWord (nbits w : Nat) : Option Instr :=
  match tableWord nbits w with
  | .error _ => .none
  | .ok e =>
    match decode e with
    | .ok i => .some i
    | .error _ => .none

end Sys2Proof
end

