-- ==== Sys2Proof/Config.lean ====
section
/-! DEFINITION. What an implementation fixes and the spec leaves open: the OPEN parameters of 00_scope.md R5,
and the one value the spec does not give. The constants below have no body, so nothing can be proved of their values. -/

namespace Sys2Proof

/-- The OPEN parameters of 00_scope.md R5. They stand in the state as plain data that no operation writes,
so that every statement about every state holds for every value of them. -/
structure Params where
  /-- `QUEUE_DEPTH`, the capacity of the frame queue. -/
  queueDepth : Nat
  /-- `MAX_TWICE_DELAY_MS`, the received-twice threshold. -/
  maxTwiceDelayMs : Nat
  /-- `RX_RISE_US`, how late the receiver sees a rising edge. -/
  rxRiseUs : Nat
  /-- `RX_FALL_US`, how late the receiver sees a falling edge. -/
  rxFallUs : Nat
  /-- `TX_RISE_US`; no rule reads it. -/
  txRiseUs : Nat
  /-- `TX_FALL_US`; no rule reads it. -/
  txFallUs : Nat
  /-- `LOOPBACK_ENV`: the receiver hears the block's own transmitter (decision D46). -/
  loopback : Bool
  deriving DecidableEq, Repr

/-- One less than `QUEUE_DEPTH`, which is positive. -/
opaque Config.queueDepthLessOne : Nat

/-- `QUEUE_DEPTH`, OPEN, a positive natural. -/
def Config.queueDepth : Nat := Config.queueDepthLessOne + 1

/-- `MAX_TWICE_DELAY_MS`, OPEN. -/
opaque Config.maxTwiceDelayMs : Nat

/-- `RX_RISE_US`, OPEN. -/
opaque Config.rxRiseUs : Nat

/-- `RX_FALL_US`, OPEN. -/
opaque Config.rxFallUs : Nat

/-- `TX_RISE_US`, OPEN. -/
opaque Config.txRiseUs : Nat

/-- `TX_FALL_US`, OPEN. -/
opaque Config.txFallUs : Nat

/-- `LOOPBACK_ENV`, the environment assumption of decision D46, left open here: a claim that needs it says so. -/
opaque Config.loopback : Bool

/-- The settling time of a frame type that has none (`None`, or a priority outside 1..5): a free value
(10_state.md R11; log 12). -/
opaque Config.unstatedSettle : Nat

end Sys2Proof
end

