-- ==== Sys2Proof/Machine/State.lean ====
section
/-! DEFINITION. Everything the spec gives the machine (10_state.md), plain data, and the state right after reset.
The field names are the spec's; INVENTORY.md lists them with their rules. -/

namespace Sys2Proof.Machine

open Sys2Proof

/-- The kind of a frame type (10_state.md R10); `sequence` is the kind of a hand-made table. -/
inductive FrameKind where
  | none
  | backward
  | backToBack
  | forward
  | query
  | corrupt
  | sequence
  deriving DecidableEq, Repr

/-- The fifteen statuses (10_state.md R12), in the order of their codes. -/
inductive Status where
  | ok
  | timeout
  | errorReceiveStartTiming
  | errorReceiveDataTiming
  | errorCollisionLoopbackTime
  | errorCollisionNoChange
  | errorCollisionWrongState
  | errorSettlingTimeViolation
  | systemIdle
  | systemFailure
  | systemRecover
  | errorCanNotProcess
  | errorBadArgument
  | errorQueueFull
  | errorBadCommand
  deriving DecidableEq, Repr

/-- A frame: received, or made to carry a status (10_state.md R13). `length` is 0..32. -/
structure RxFrame where
  loopback : Bool
  twice : Bool
  status : Status
  length : Nat
  data : Word
  timestamp : Word
  deriving DecidableEq, Repr

/-- The empty frame (10_state.md R13). -/
abbrev RxFrame.empty : RxFrame := ⟨false, false, .ok, 0, 0, 0⟩

/-- The nine receiver states (10_state.md R14), in the order of their codes. -/
inductive RxState where
  | idle
  | startBitStart
  | startBitInside
  | dataBitStart
  | dataBitInside
  | errorInFrame
  | interFrameIdle
  | low
  | failure
  deriving DecidableEq, Repr

/-- The previous completed frame (10_state.md R28). -/
structure Prev where
  valid : Bool
  length : Nat
  data : Word
  timestamp : Word
  deriving DecidableEq, Repr

/-- A compare channel (10_state.md R31 to R33). -/
structure Compare where
  armed : Bool
  count : Word
  deriving DecidableEq, Repr

/-- The transmitter (10_state.md R15 to R23). -/
structure Tx where
  /-- `tx.count[0..66]`, the pulse table; entries at or above `n` hold no defined value. -/
  count : Vector Word 67
  /-- `tx.n`, the number of valid entries. -/
  n : Fin 68
  /-- `tx.count_now`, the running sum during construction. -/
  countNow : Word
  /-- `tx.level_high`, during construction: the last phase pushed holds the line idle. -/
  levelHigh : Bool
  /-- `tx.index`, the entry loaded in the transmit compare register. -/
  index : Fin 67
  armed : Bool
  running : Bool
  building : Bool
  kind : FrameKind
  prio : Fin 8
  /-- `tx.repeat`, the repetitions still to be scheduled. -/
  rep : BitVec 8
  toggleOnMatch : Bool
  /-- `tx_line`, the level the transmitter drives. -/
  line : Level
  /-- `tx.t0`, `now_us` at the start of the transmission. -/
  t0 : Word
  deriving DecidableEq, Repr

/-- The receiver (10_state.md R24 to R30). -/
structure Rx where
  state : RxState
  frame : RxFrame
  /-- `rx.last_bit`: the logical value of the bit cell the decoder is in. -/
  lastBit : Bool
  lastEdge : Word
  lastFullFrame : Word
  prev : Prev
  pendingTx : Bool
  endIfi : Word
  deriving DecidableEq, Repr

/-- The frame queue (10_state.md R36), oldest frame first. -/
structure FrameQueue where
  items : List RxFrame
  overflow : Bool
  deriving DecidableEq, Repr

/-- What a command returns to the host (30_encoding.md R67). -/
inductive Reply where
  /-- `IS_TX_IDLE`: one bit. -/
  | txIdle (idle : Bool)
  /-- `TRY_RECEIVE`: `valid` and a frame word. -/
  | received (valid : Bool) (word : BitVec 96)
  deriving DecidableEq, Repr

/-- The seven steps in which the operations of one instant take effect (60_exceptions.md R241). -/
inductive Phase where
  | reset
  | txMatch
  | rxEdge
  | stopMatch
  | periodMatch
  | queryMatch
  | host
  deriving DecidableEq, Repr

/-- What the environment and the host present at the instant `time`: a change of the level that external devices
drive, an event vector with its arguments, and command words in their order (30_encoding.md R60, R70, R72). Several
entries may have the same time. -/
structure Instant where
  time : Nat
  bus : Option Level
  event : EventInput
  cmds : List (BitVec 64)
  deriving DecidableEq, Repr

/-- The machine's inputs: time, the bus, and what is presented now and later. Not state of the block
(10_state.md, head), but of the model, so that its step is a function of the state. -/
structure Env where
  /-- Ideal time `T`, in µs (00_scope.md R6). -/
  now : Nat
  /-- Some external device drives the bus active (decision D46). -/
  ext : Level
  /-- The bus level the capture unit last handed over as an edge, or reset read. -/
  seen : Level
  /-- The step of R241 the present instant has reached. -/
  phase : Phase
  /-- The compare channels (bits 1 to 4 of the event vector) that have been due at a step made at the present instant
  (60_exceptions.md R241, 42_receiver.md R160). -/
  matched : BitVec 6
  /-- The event vectors presented from outside at the present instant, with their arguments, as far as they have not
  been taken. -/
  presented : List EventInput
  /-- The command words the host presents at the present instant. -/
  cmds : List (BitVec 64)
  /-- What will be presented when its time has come. -/
  timeline : List Instant
  deriving DecidableEq, Repr

/-- The whole machine. -/
structure State where
  params : Params
  tx : Tx
  rx : Rx
  stopCmp : Compare
  periodCmp : Compare
  queryCmp : Compare
  q : FrameQueue
  replies : List Reply
  env : Env
  deriving DecidableEq, Repr

/-- Nothing stops this machine with a fault: "*Fault* (the chip traps): none" (60_exceptions.md R247).
No one raises one, and having no constructor is safe: it admits nothing the block forbids. -/
inductive Fault where
  deriving DecidableEq, Repr

/-- Why the machine gives no meaning. -/
inductive Refusal where
  /-- An operation the model does not give a meaning yet; no arm of `exec` uses it. Safe: the model stops. -/
  | notModelled (mnemonic : String)
  /-- Raised by the step when a receive match is presented from outside though its channel is not due and has not been
  at this instant: "for the three receive matches a model should `refuse` an event whose channel is not due"
  (93_implementation_defined.md section 2; log 9).
  Safe: the block's own channels never do that. -/
  | matchNotDue (event : BitVec 6)
  deriving DecidableEq, Repr

/-- The machine right after a RESET at `T = 0` with the line idle (10_state.md R39, 70_reset_and_hazards.md R270),
nothing presented. The pulse table's contents, which the spec leaves undefined, are 0 (log 2); the parameters are
the open constants of Config (log 3). -/
def State.reset : State where
  params :=
    { queueDepth := Config.queueDepth, maxTwiceDelayMs := Config.maxTwiceDelayMs,
      rxRiseUs := Config.rxRiseUs, rxFallUs := Config.rxFallUs,
      txRiseUs := Config.txRiseUs, txFallUs := Config.txFallUs, loopback := Config.loopback }
  tx :=
    { count := Vector.replicate 67 0, n := 0, countNow := 0, levelHigh := true, index := 0,
      armed := false, running := false, building := false, kind := .none, prio := 0, rep := 0,
      toggleOnMatch := false, line := false, t0 := 0 }
  rx :=
    { state := .idle, frame := RxFrame.empty, lastBit := true, lastEdge := 0, lastFullFrame := 0,
      prev := ⟨false, 0, 0, 0⟩, pendingTx := false, endIfi := 0 }
  stopCmp := ⟨false, 0⟩
  periodCmp := ⟨false, 0⟩
  queryCmp := ⟨false, 0⟩
  q := ⟨[], false⟩
  replies := []
  env :=
    { now := 0, ext := false, seen := false, phase := .reset, matched := 0, presented := [],
      cmds := [], timeline := [] }

end Sys2Proof.Machine
end

