-- ==== Sys2Proof/Machine/Timing.lean ====
section
/-! DEFINITION. The timing tables of 40_timing_tables.md, in µs. -/

namespace Sys2Proof.Machine

/-- `T_HALF` (R90): a phase that is half a bit cell. -/
def tHalf : Word := 417

/-- `T_FULL` (R90): a phase made of two half cells at the same level. -/
def tFull : Word := 833

/-- `T_STOP_TX` (R90): the idle phase that ends a transmission. -/
def tStopTx : Word := 2450

/-- `T_STOP_RX` (R91): the stop-bit compare's distance from an accepted edge. -/
def tStopRx : Word := 2400

/-- `W_BEGIN` (R92). -/
def wBegin : Int × Int := (325, 508)

/-- `W_HALF` (R92). -/
def wHalf : Int × Int := (325, 508)

/-- `W_FULL` (R92). -/
def wFull : Int × Int := (658, 1008)

/-- `T_FAILURE` (R93). -/
def tFailure : Word := 500000

/-- `T_BACKWARD_MAX` (R93). -/
def tBackwardMax : Word := 13400

/-- The settling-time table `SETTLE[0..6]` (R94). -/
def settleTable (i : Fin 7) : Nat :=
  match i with
  | 0 => 5500
  | 1 => 13500
  | 2 => 14900
  | 3 => 16300
  | 4 => 17900
  | 5 => 19500
  | 6 => 2450

/-- `SETTLE_MAX` (R95). -/
def settleMax : Nat := 19500

/-- `T_CORRUPT` (R96). -/
def tCorrupt : Word := 1500

/-- `T_MIN_SCHEDULE` (R96). -/
def tMinSchedule : Nat := 100

/-- `MAX_BITS` (00_scope.md R5). -/
def maxBits : Nat := 32

/-- `SCHED_CAP` (00_scope.md R5). -/
def schedCap : Nat := 67

end Sys2Proof.Machine
end

