-- ==== Sys2Proof/Machine/Operands.lean ====
section
/-! DEFINITION. What an operation reads: the three environment inputs every operation carries (30_encoding.md R60),
the kind and priority of a `SEND`, pulse-table entries, settling times and reference edges, and the codes and words
in which results leave (R65, R66, R68). -/

namespace Sys2Proof.Machine

open Sys2Proof

/-- `now_us = T mod 2^32` (00_scope.md R6). -/
def State.nowUs (s : State) : Word := BitVec.ofNat 32 s.env.now

/-- `now_ms = floor(T / 1000) mod 2^32` (00_scope.md R6). -/
def State.nowMs (s : State) : Word := BitVec.ofNat 32 (s.env.now / 1000)

/-- `line_active`, the bus level the receiver reads: some external device drives the bus active, or the block's own
transmitter does and the receiver hears it (decision D46; log 4). -/
def State.lineActive (s : State) : Level := s.env.ext || (s.tx.line && s.params.loopback)

/-- The kind a `SEND` names, when it is one that can be sent (30_encoding.md R64; 41_transmitter.md R104 step 1). -/
def sendKind : KindField → Option FrameKind
  | .none => .none
  | .backward => .some .backward
  | .backToBack => .some .backToBack
  | .forward => .some .forward
  | .query => .some .query
  | .corrupt => .some .corrupt
  | .reserved _ => .none

/-- Kinds whose priority means something (10_state.md R10). -/
def hasPriority : FrameKind → Bool
  | .forward => true
  | .query => true
  | .none => false
  | .backward => false
  | .backToBack => false
  | .corrupt => false
  | .sequence => false

/-- `prio ∈ 1..5` (30_encoding.md R61). -/
def legalPriority (prio : BitVec 4) : Bool := decide (1 ≤ prio.toNat) && decide (prio.toNat ≤ 5)

/-- The kind of an acceptable `SEND`, `none` when one of the argument tests of 41_transmitter.md R104 step 1 fails:
`length > 32`, kind `None` or reserved, priority outside 1..5 for `Forward` and `Query`. -/
def acceptableKind (kind : KindField) (prio : BitVec 4) (length : BitVec 8) : Option FrameKind :=
  if 32 < length.toNat then .none
  else
    match sendKind kind with
    | .none => .none
    | .some k => if hasPriority k && !legalPriority prio then .none else .some k

/-- `tx.prio <- prio` (0 when the kind has no priority) (41_transmitter.md R104 step 3). -/
def storedPriority (k : FrameKind) (prio : BitVec 4) : Fin 8 :=
  if hasPriority k then Fin.ofNat 8 prio.toNat else 0

/-- `tx.count[i]`. -/
def Tx.entry (t : Tx) (i : Fin 67) : Word := t.count[i]

/-- The valid entries of the pulse table, first to last (10_state.md R15). -/
def Tx.table (t : Tx) : List Word := t.count.toList.take t.n.val

/-- `settle_index(kind, prio)` (10_state.md R11). -/
def settleIndex (k : FrameKind) (prio : Fin 8) : Option (Fin 7) :=
  match k with
  | .backward => .some 0
  | .backToBack => .some 6
  | .forward => if h : 1 ≤ prio.val ∧ prio.val ≤ 5 then .some ⟨prio.val, by omega⟩ else .none
  | .query => if h : 1 ≤ prio.val ∧ prio.val ≤ 5 then .some ⟨prio.val, by omega⟩ else .none
  | .corrupt => .some 1
  | .sequence => .some 1
  | .none => .none

/-- `SETTLE[settle_index(kind, prio)]`; a type without an index has a free value (log 12). -/
def settleTime (k : FrameKind) (prio : Fin 8) : Nat :=
  match settleIndex k prio with
  | .some i => settleTable i
  | .none => Config.unstatedSettle

/-- The reference edge `ref` of the armed transmission (43_scheduler.md R193). -/
def State.refEdge (s : State) : Word :=
  match s.tx.kind with
  | .backward => s.rx.lastFullFrame
  | .none => s.rx.lastEdge
  | .backToBack => s.rx.lastEdge
  | .forward => s.rx.lastEdge
  | .query => s.rx.lastEdge
  | .corrupt => s.rx.lastEdge
  | .sequence => s.rx.lastEdge

/-- `end = u32(ref + SETTLE[settle_index(tx.kind, tx.prio)])` (43_scheduler.md R193). -/
def State.settleEnd (s : State) : Word := s.refEdge + BitVec.ofNat 32 (settleTime s.tx.kind s.tx.prio)

/-- Status codes (30_encoding.md R65). -/
def statusCode : Status → BitVec 8
  | .ok => 0x00
  | .timeout => 0x01
  | .errorReceiveStartTiming => 0x02
  | .errorReceiveDataTiming => 0x03
  | .errorCollisionLoopbackTime => 0x04
  | .errorCollisionNoChange => 0x05
  | .errorCollisionWrongState => 0x06
  | .errorSettlingTimeViolation => 0x07
  | .systemIdle => 0x08
  | .systemFailure => 0x09
  | .systemRecover => 0x0A
  | .errorCanNotProcess => 0x0B
  | .errorBadArgument => 0x0C
  | .errorQueueFull => 0x0D
  | .errorBadCommand => 0x0E

/-- Receiver state codes (30_encoding.md R66). -/
def rxStateCode : RxState → BitVec 4
  | .idle => 0
  | .startBitStart => 1
  | .startBitInside => 2
  | .dataBitStart => 3
  | .dataBitInside => 4
  | .errorInFrame => 5
  | .interFrameIdle => 6
  | .low => 7
  | .failure => 8

/-- The 96-bit frame word (30_encoding.md R68). -/
def frameWord (f : RxFrame) : BitVec 96 :=
  f.timestamp ++ BitVec.ofBool f.loopback ++ BitVec.ofBool f.twice ++ 0#6 ++ statusCode f.status
    ++ BitVec.ofNat 8 f.length ++ 0#8 ++ f.data

end Sys2Proof.Machine
end

