-- ==== Sys2Proof/Machine/Flags.lean ====
section
/-! DEFINITION. The one-bit results the rules compute. The block has no flags register (41_transmitter.md, head):
what stands here are the comparisons of counts (00_scope.md R6), the window tests and the delay correction
(42_receiver.md R144), the received-twice test (R161) and when a channel is due (10_state.md R35). -/

namespace Sys2Proof.Machine

open Sys2Proof

/-- `sdiff(a, b)`: the signed 32-bit reading of `u32(a − b)` (00_scope.md R6). -/
def signedDiff (a b : Word) : Int := (a - b).toInt

/-- `in_window(e, (lo, hi))`, both ends included (00_scope.md R6, decision D18). -/
def inWindow (e : Int) (w : Int × Int) : Bool := decide (w.1 ≤ e) && decide (e ≤ w.2)

/-- `δ = RX_RISE_US − RX_FALL_US` (42_receiver.md R144). -/
def Params.delta (p : Params) : Int := (p.rxRiseUs : Int) - (p.rxFallUs : Int)

/-- The corrected elapsed time `ec` of an edge at `tCap` that leaves the bus at `level`
(42_receiver.md R141 for `e`, R144 for the correction). -/
def State.correctedElapsed (s : State) (tCap : Word) (level : Level) : Int :=
  let e : Int := (tCap - s.rx.lastEdge).toNat
  if level then e + Params.delta s.params else e - Params.delta s.params

/-- `u32(f.timestamp − rx.prev.timestamp) ≤ MAX_TWICE_DELAY_MS` and the same length and data
(42_receiver.md R161, R165). -/
def isTwice (p : Params) (prev : Prev) (f : RxFrame) : Bool :=
  prev.valid && decide (prev.length = f.length) && decide (prev.data = f.data)
    && decide ((f.timestamp - prev.timestamp).toNat ≤ p.maxTwiceDelayMs)

/-- A compare channel is due (10_state.md R35). -/
def Compare.due (c : Compare) (nowUs : Word) : Bool := c.armed && decide (c.count = nowUs)

/-- The transmit compare is due: `u32(now_us − tx.t0) = tx.count[tx.index]` while running
(10_state.md R35, 41_transmitter.md R118). -/
def State.txDue (s : State) : Bool := s.tx.running && decide (s.nowUs - s.tx.t0 = s.tx.entry s.tx.index)

/-- The capture unit has a transition to hand over: the bus level is not the one it handed over last
(60_exceptions.md R233). -/
def State.edgeDue (s : State) : Bool := s.lineActive != s.env.seen

end Sys2Proof.Machine
end

