-- ==== Sys2Proof/Machine/Ops.lean ====
section
/-! DEFINITION. The shared operations: the frame queue, statuses and the detection of errors, which take the place of
exception entry and return (60_exceptions.md R244, R245), the pulse table, the scheduler and the receiver's
procedures. -/

namespace Sys2Proof.Machine

open Sys2Proof

/-! ## Frame queue and statuses (44_frame_queue.md) -/

/-- The queue of depth `depth` after one `enqueue` (R211): appended at the tail, or dropped with the overflow flag
set. -/
def FrameQueue.push (depth : Nat) (f : RxFrame) (q : FrameQueue) : FrameQueue :=
  if q.items.length < depth then { q with items := q.items ++ [f] } else { q with overflow := true }

/-- `enqueue(f)` (R211). -/
def enqueue (f : RxFrame) (s : State) : State := { s with q := s.q.push s.params.queueDepth f }

/-- A status frame (R212). -/
def statusFrame (st : Status) (nowMs : Word) : RxFrame := ⟨false, false, st, 0, 0, nowMs⟩

/-- `report(S)` (R212): what raising a status does. -/
def report (st : Status) (s : State) : State := enqueue (statusFrame st s.nowMs) s

/-! ## Pulse table (41_transmitter.md) -/

/-- `clear_table` (R103). -/
def Tx.clearTable (t : Tx) : Tx := { t with n := 0, countNow := 0, levelHigh := true }

/-- `push_phase(d)` (R106); `none` is its overflow. -/
def Tx.pushPhase (t : Tx) (d : Word) : Option Tx :=
  if h : t.n.val < 67 ∧ t.countNow.toNat + d.toNat < 2 ^ 32 then
    .some { t with
      countNow := t.countNow + d
      count := t.count.set t.n.val (t.countNow + d) h.1
      n := ⟨t.n.val + 1, by omega⟩ }
  else .none

/-- `extend_last(d_old, d_new)`, defined when `tx.n ≥ 1` (R105; log 20). -/
def Tx.extendLast (t : Tx) (dOld dNew : Word) : Tx :=
  if h : 0 < t.n.val then
    { t with
      countNow := t.countNow - dOld + dNew
      count := t.count.set (t.n.val - 1) (t.countNow - dOld + dNew) (by omega) }
  else t

/-- `add_bit(b)` (R107). -/
def Tx.addBit (t : Tx) (b : Bool) : Option Tx :=
  let pushed :=
    if (!b) = t.levelHigh then (t.extendLast tHalf tFull).pushPhase tHalf
    else (t.pushPhase tHalf).bind fun t' => t'.pushPhase tHalf
  pushed.map fun t' => { t' with levelHigh := b }

/-- The data bits `data[k−1]` down to `data[0]`, most significant first (R108, 20_memory.md R41). -/
def Tx.addBits (data : Word) : Nat → Tx → Option Tx
  | 0, t => .some t
  | k + 1, t => (t.addBit (data.getLsbD k)).bind fun t' => Tx.addBits data k t'

/-- The two phases of the start bit (R108). -/
def Tx.startBit (t : Tx) : Option Tx :=
  ((t.clearTable.pushPhase tHalf).bind fun t' => t'.pushPhase tHalf).map fun t' => { t' with levelHigh := true }

/-- The stop condition (R109). -/
def Tx.stopCondition (t : Tx) : Option Tx :=
  if t.levelHigh then .some (t.extendLast tHalf tStopTx) else t.pushPhase tStopTx

/-- `encode(kind, length, data)` (R108, R110); `none` if a push overflows, which no length up to 32 does (R125). -/
def Tx.encodeFrame (t : Tx) (kind : FrameKind) (length : Nat) (data : Word) : Option Tx :=
  t.startBit.bind fun t1 =>
    (if kind = .corrupt then (t1.pushPhase tCorrupt).map fun t2 => { t2 with levelHigh := false }
      else Tx.addBits data length t1).bind Tx.stopCondition

/-- What a `push_phase` that overflows does (R106, R114). -/
def tableOverflow (s : State) : State :=
  report .errorCanNotProcess { s with tx := { s.tx.clearTable with building := false } }

/-- `tx_start` (R116). -/
def txStart (s : State) : State :=
  { s with
    rx.pendingTx := false
    tx := { s.tx with
      running := true
      t0 := s.nowUs
      index := 0
      toggleOnMatch := decide (1 < s.tx.n.val)
      line := true } }

/-! ## Scheduler (43_scheduler.md) -/

/-- `clamp(c)` (R192). -/
def clamp (nowUs c : Word) : Word :=
  if signedDiff c nowUs < tMinSchedule then nowUs + BitVec.ofNat 32 tMinSchedule else c

/-- Arming the period compare for a retry `T_MIN_SCHEDULE` from now (R191, R195). -/
def armRetry (s : State) : State :=
  { s with periodCmp := ⟨true, s.nowUs + BitVec.ofNat 32 tMinSchedule⟩ }

/-- `start_or_retry()` (R191). -/
def startOrRetry (s : State) : State :=
  if s.tx.running then armRetry { s with rx.pendingTx := true } else txStart s

/-- The settling time has elapsed: `d ≤ 0 ∨ d > SETTLE_MAX` (R191). -/
def State.settled (s : State) : Bool :=
  decide (signedDiff s.settleEnd s.nowUs ≤ 0) || decide ((settleMax : Int) < signedDiff s.settleEnd s.nowUs)

/-- The `InterFrameIdle` case of `rx_schedule_transmission` (R191). -/
def scheduleInWindow (s : State) : State :=
  let s1 := { s with rx.endIfi := s.settleEnd }
  if s.settled then startOrRetry s1
  else { s1 with rx.pendingTx := true, periodCmp := ⟨true, clamp s.nowUs s.settleEnd⟩ }

/-- `rx_schedule_transmission()` (R191). -/
def rxScheduleTransmission (s : State) : State :=
  match s.rx.state with
  | .idle => startOrRetry s
  | .interFrameIdle => scheduleInWindow s
  | .startBitStart => { s with rx.pendingTx := true }
  | .startBitInside => { s with rx.pendingTx := true }
  | .dataBitStart => { s with rx.pendingTx := true }
  | .dataBitInside => { s with rx.pendingTx := true }
  | .errorInFrame => { s with rx.pendingTx := true }
  | .low => { s with rx.pendingTx := true }
  | .failure => { s with rx.pendingTx := true }

/-- The settling window of `schedule_settling_timeout`, its first three lines (R190). -/
def openWindow (s : State) : State :=
  { s with
    rx.state := .interFrameIdle
    rx.endIfi := s.rx.lastEdge + BitVec.ofNat 32 settleMax
    periodCmp := ⟨true, clamp s.nowUs (s.rx.lastEdge + BitVec.ofNat 32 settleMax)⟩ }

/-- The transmitter reports a pending repeat (R197). -/
def State.repeatPending (s : State) : Bool := s.tx.armed && decide (0 < s.tx.rep.toNat) && !s.rx.pendingTx

/-- `schedule_settling_timeout()` (R190, R197). -/
def scheduleSettlingTimeout (s : State) : State :=
  if s.rx.pendingTx then rxScheduleTransmission (openWindow s)
  else if s.repeatPending then
    rxScheduleTransmission { openWindow s with tx := { s.tx with rep := s.tx.rep - 1 } }
  else openWindow s

/-! ## Receiver (42_receiver.md) -/

/-- What every accepted edge does before its state's own rule (R141). -/
def acceptEdge (tCap : Word) (s : State) : State :=
  { s with rx.lastEdge := tCap, stopCmp := ⟨true, tCap + tStopRx⟩ }

/-- `rx_error(S)` (R150): detecting a receive error, the block's "trap entry" (60_exceptions.md R244). -/
def rxError (st : Status) (s : State) : State :=
  let s1 := enqueue { s.rx.frame with status := st } s
  { s1 with rx := { s1.rx with frame := RxFrame.empty, state := .errorInFrame } }

/-- `capture_bit(b)` (R149), with the `rx.state <- DataBitInside` all its callers make when it succeeds
(R146 to R148). -/
def captureBit (b : Bool) (s : State) : State :=
  if 32 ≤ s.rx.frame.length then rxError .errorReceiveDataTiming s
  else
    { s with rx := { s.rx with
      frame := { s.rx.frame with
        data := (s.rx.frame.data <<< 1) ||| (BitVec.ofBool b).setWidth 32
        length := s.rx.frame.length + 1 }
      state := .dataBitInside } }

/-- The start edge (R142), after `acceptEdge`. -/
def startEdge (s : State) : State :=
  { s with
    rx := { s.rx with
      frame := ⟨s.tx.armed, false, .ok, 0, 0, s.nowMs⟩
      lastBit := true
      state := .startBitStart }
    periodCmp.armed := false
    queryCmp.armed := false }

/-- The edge in `StartBitStart` (R145). -/
def startBitStartEdge (ec : Int) (s : State) : State :=
  if inWindow ec wBegin then { s with rx.state := .startBitInside }
  else rxError .errorReceiveStartTiming s

/-- The edge in `StartBitInside` (R146) and in `DataBitInside` (R148). -/
def insideEdge (ec : Int) (s : State) : State :=
  if inWindow ec wHalf then { s with rx.state := .dataBitStart }
  else if inWindow ec wFull then captureBit (!s.rx.lastBit) { s with rx.lastBit := !s.rx.lastBit }
  else rxError .errorReceiveDataTiming s

/-- The edge in `DataBitStart` (R147). -/
def dataBitStartEdge (ec : Int) (s : State) : State :=
  if inWindow ec wHalf then captureBit s.rx.lastBit s
  else rxError .errorReceiveDataTiming s

/-- Recovery, the rising edge in `Low` or `Failure` (R152), after `acceptEdge`. -/
def recover (s : State) : State :=
  let s1 := report .systemRecover s
  { s1 with rx.state := .errorInFrame }

/-- Close-out without a frame (R162): the block's "trap return" (60_exceptions.md R245). -/
def closeOut (s : State) : State := scheduleSettlingTimeout { s with rx.frame := RxFrame.empty }

/-- The frame in progress as a completed frame, with its `twice` flag (R161). -/
def completedFrame (s : State) : RxFrame :=
  { s.rx.frame with twice := isTwice s.params s.rx.prev s.rx.frame }

/-- Completion (R161). -/
def completeFrame (s : State) : State :=
  let s1 := enqueue (completedFrame s) s
  scheduleSettlingTimeout
    { s1 with rx := { s1.rx with
      prev := ⟨true, s.rx.frame.length, s.rx.frame.data, s.rx.frame.timestamp⟩
      lastFullFrame := s.rx.lastEdge
      frame := RxFrame.empty } }

/-- Entering `Low` (R163). -/
def enterLow (s : State) : State :=
  { s with
    rx := { s.rx with frame := RxFrame.empty, state := .low }
    stopCmp := ⟨true, s.rx.lastEdge + tFailure⟩ }

/-- Bus failure (R164). -/
def busFailure (s : State) : State :=
  let s1 := report .systemFailure s
  { s1 with rx.state := .failure }

/-- A command word whose `op` selects no operation (30_encoding.md R63). -/
def badCommand (s : State) : State := report .errorBadCommand s

end Sys2Proof.Machine
end

