-- ==== Sys2Proof/Machine/Receive.lean ====
section
/-! DEFINITION. The receiver's operations: RX_EDGE, RX_STOPBIT_MATCH, RX_QUERY_MATCH, REQ_STATUS (42_receiver.md). -/

namespace Sys2Proof.Machine

open Sys2Proof

/-- `RX_EDGE`: the dispatch on `rx.state` and `level` (R140, R143, R151). The elapsed time is taken from the old
`rx.last_edge` (R141). -/
def rxEdge (tCap : Word) (level : Level) (s : State) : State :=
  let ec := s.correctedElapsed tCap level
  match s.rx.state with
  | .idle => if level then startEdge (acceptEdge tCap s) else s
  | .interFrameIdle => if level then startEdge (acceptEdge tCap s) else s
  | .startBitStart => startBitStartEdge ec (acceptEdge tCap s)
  | .startBitInside => insideEdge ec (acceptEdge tCap s)
  | .dataBitStart => dataBitStartEdge ec (acceptEdge tCap s)
  | .dataBitInside => insideEdge ec (acceptEdge tCap s)
  | .errorInFrame => acceptEdge tCap s
  | .low => if level then s else recover (acceptEdge tCap s)
  | .failure => if level then s else recover (acceptEdge tCap s)

/-- `RX_STOPBIT_MATCH`: the dispatch on the line level and `rx.state` (R160). -/
def rxStopbitMatch (s : State) : State :=
  let s1 := { s with stopCmp.armed := false }
  match s.rx.state with
  | .startBitStart => if s.lineActive then enterLow s1 else completeFrame s1
  | .startBitInside => if s.lineActive then enterLow s1 else completeFrame s1
  | .dataBitStart => if s.lineActive then enterLow s1 else completeFrame s1
  | .dataBitInside => if s.lineActive then enterLow s1 else completeFrame s1
  | .errorInFrame => if s.lineActive then enterLow s1 else closeOut s1
  | .low => if s.lineActive then busFailure s1 else closeOut s1
  | .failure => if s.lineActive then s1 else closeOut s1
  | .idle => if s.lineActive then enterLow s1 else s1
  | .interFrameIdle => if s.lineActive then enterLow s1 else s1

/-- `RX_QUERY_MATCH` (R166). -/
def rxQueryMatch (s : State) : State :=
  let s1 := { s with queryCmp.armed := false }
  match s.rx.state with
  | .idle => report .timeout s1
  | .interFrameIdle => report .timeout s1
  | .startBitStart => s1
  | .startBitInside => s1
  | .dataBitStart => s1
  | .dataBitInside => s1
  | .errorInFrame => s1
  | .low => s1
  | .failure => s1

/-- `REQ_STATUS` (R168). -/
def reqStatus (s : State) : State :=
  if s.rx.state = .idle then report .timeout s else s

/-- `RX_EDGE(t_cap, level)` (R140). -/
def execRxEdge (tCap : Word) (level : Level) (s : State) : Host.Outcome State Fault Refusal :=
  .next (rxEdge tCap level s)

/-- `RX_STOPBIT_MATCH` (R160). -/
def execRxStopbitMatch (s : State) : Host.Outcome State Fault Refusal := .next (rxStopbitMatch s)

/-- `RX_QUERY_MATCH` (R166). -/
def execRxQueryMatch (s : State) : Host.Outcome State Fault Refusal := .next (rxQueryMatch s)

/-- `REQ_STATUS` (R168). -/
def execReqStatus (s : State) : Host.Outcome State Fault Refusal := .next (reqStatus s)

end Sys2Proof.Machine
end

