-- ==== Sys2Proof/Machine/Agenda.lean ====
section
/-! DEFINITION. What happens at one instant and when the next one is: the order of 60_exceptions.md R241, consequent
edges (R242), the channels' own events (10_state.md R35), the inputs presented from outside, and the passage of
time. -/

namespace Sys2Proof.Machine

open Sys2Proof

/-! ## The event vector of the instant -/

/-- One bit of the event vector. -/
def bitAt (b : Bool) (k : Nat) : BitVec 6 := if b then BitVec.twoPow 6 k else 0

/-- The events the block's own channels and its capture unit produce now, at the positions of 30_encoding.md R70
(10_state.md R35, 60_exceptions.md R233). -/
def State.dueVector (s : State) : BitVec 6 :=
  bitAt s.edgeDue 0 ||| bitAt (s.stopCmp.due s.nowUs) 1 ||| bitAt (s.periodCmp.due s.nowUs) 2
    ||| bitAt (s.queryCmp.due s.nowUs) 3 ||| bitAt s.txDue 4

/-- The events of several presented vectors as one vector. -/
def presentedVec (es : List EventInput) : BitVec 6 := es.foldr (fun e v => e.vec ||| v) 0

/-- Every event of the instant, due or presented from outside, with the arguments of its `RX_EDGE`: those of the first
presented one if one is presented, else `t_cap = now_us` and the bus level (42_receiver.md R140, decision D1). -/
def State.eventInput (s : State) : EventInput :=
  match s.env.presented.find? (fun e => e.vec.getLsbD 0) with
  | .some e => ⟨presentedVec s.env.presented ||| s.dueVector, e.tCap, e.level⟩
  | .none => ⟨presentedVec s.env.presented ||| s.dueVector, s.nowUs, s.lineActive⟩

/-- The events whose step of R241 has not been passed yet. -/
def Phase.mask : Phase → BitVec 6
  | .reset => 0b111111
  | .txMatch => 0b011111
  | .rxEdge => 0b001111
  | .stopMatch => 0b001110
  | .periodMatch => 0b001100
  | .queryMatch => 0b001000
  | .host => 0b000000

/-- The step of R241 an operation takes effect at. -/
def phaseOf : Instr → Phase
  | .reset => .reset
  | .txMatch => .txMatch
  | .rxEdge _ _ => .rxEdge
  | .rxStopbitMatch => .stopMatch
  | .rxPeriodMatch => .periodMatch
  | .rxQueryMatch => .queryMatch
  | .send _ _ _ _ _ => .host
  | .seqStart => .host
  | .seqNext _ => .host
  | .seqExecute => .host
  | .reqStatus => .host
  | .tryReceive => .host
  | .isTxIdle => .host

/-- The step of R241 that follows. -/
def Phase.following : Phase → Phase
  | .reset => .txMatch
  | .txMatch => .rxEdge
  | .rxEdge => .stopMatch
  | .stopMatch => .periodMatch
  | .periodMatch => .queryMatch
  | .queryMatch => .host
  | .host => .host

/-! ## Taking the next operation -/

/-- What the machine finds when it looks for its next operation. -/
inductive Fetched where
  /-- An operation, and the state with its input taken. -/
  | op (i : Instr) (s : State)
  /-- A command word that selects no operation, and the state with it taken. -/
  | noCommand (s : State)
  /-- A match event presented from outside that does not occur, and the state with it taken. -/
  | void (s : State)
  /-- A receive match presented from outside though its channel is not due and has not been at this instant. -/
  | notDue (i : Instr)
  /-- Nothing is left to do at this instant. -/
  | quiet
  deriving DecidableEq, Repr

/-- An event may take effect: the environment's at will, a match only when its channel is due, a `TX_MATCH` also
while the transmit timer is stopped, where it has no effect (41_transmitter.md R118; log 9). Whether it is due is
asked when its step of 60_exceptions.md R241 is reached, on the state the earlier operations of the instant left. -/
def eventAllowed (i : Instr) (s : State) : Bool :=
  match i with
  | .rxStopbitMatch => s.stopCmp.due s.nowUs
  | .rxPeriodMatch => s.periodCmp.due s.nowUs
  | .rxQueryMatch => s.queryCmp.due s.nowUs
  | .txMatch => !s.tx.running || s.txDue
  | .rxEdge _ _ => true
  | .reset => true
  | .send _ _ _ _ _ => true
  | .seqStart => true
  | .seqNext _ => true
  | .seqExecute => true
  | .reqStatus => true
  | .tryReceive => true
  | .isTxIdle => true

/-- The bus level the capture unit has handed over once `i` is taken: an `RX_EDGE` clears itself
(60_exceptions.md R233). -/
def seenAfter (i : Instr) (s : State) : Level :=
  match i with
  | .rxEdge _ _ => s.lineActive
  | .rxStopbitMatch => s.env.seen
  | .rxPeriodMatch => s.env.seen
  | .rxQueryMatch => s.env.seen
  | .txMatch => s.env.seen
  | .reset => s.env.seen
  | .send _ _ _ _ _ => s.env.seen
  | .seqStart => s.env.seen
  | .seqNext _ => s.env.seen
  | .seqExecute => s.env.seen
  | .reqStatus => s.env.seen
  | .tryReceive => s.env.seen
  | .isTxIdle => s.env.seen

/-- The event of the bit `b` taken from the first presented vector that has it; a vector with no event left is gone.
DESIGN CHOICE (log 28): where two vectors of one instant hold the same event, they are two operations, in the order in
which they are presented. -/
def dropEvent (b : BitVec 6) : List EventInput → List EventInput
  | [] => []
  | e :: es =>
    if e.vec &&& b = 0 then e :: dropEvent b es
    else if e.vec &&& ~~~ b = 0 then es else { e with vec := e.vec &&& ~~~ b } :: es

/-- The step of R241 the instant has reached once `i` is taken and `es` is left of what is presented: the next one, or
the same while a further operation of the same kind is presented (log 10, log 28). -/
def phaseAfter (i : Instr) (es : List EventInput) : Phase :=
  if presentedVec es &&& eventBit i = 0 then (phaseOf i).following else phaseOf i

/-- The state with the event `i` taken from its inputs. -/
def takeEvent (i : Instr) (s : State) : State :=
  { s with env := { s.env with
    seen := seenAfter i s
    phase := phaseAfter i (dropEvent (eventBit i) s.env.presented)
    presented := dropEvent (eventBit i) s.env.presented } }

/-- A presented match that is not due does not occur: one whose channel was due at an earlier step of the instant, for
an operation of the instant has re-armed or disarmed the channel (60_exceptions.md R241 "removes", 42_receiver.md R160
"the match does not occur", 10_state.md R35 "exactly once"); and a `TX_MATCH`, which "is never produced otherwise"
(41_transmitter.md R118; DEDUCED, log 9). -/
def matchVoid (i : Instr) (s : State) : Bool := decide (i = .txMatch) || s.env.matched &&& eventBit i != 0

/-- Taking the event `i`: it is run if it may take effect; a match that does not occur is taken and has no effect; any
other receive match whose channel is not due is refused (93_implementation_defined.md section 2; log 9). -/
def fetchEvent (i : Instr) (s : State) : Fetched :=
  if eventAllowed i s then .op i (takeEvent i s)
  else if matchVoid i s then .void (takeEvent i s)
  else .notDue i

/-- The state with the first presented command taken; `rest` are the commands after it. -/
def takeCommand (rest : List (BitVec 64)) (s : State) : State :=
  { s with env := { s.env with phase := .host, cmds := rest } }

/-- Taking the command word `w` (30_encoding.md R63). -/
def fetchCommand (w : BitVec 64) (rest : List (BitVec 64)) (s : State) : Fetched :=
  match decodeCmd w with
  | .ok i => .op i (takeCommand rest s)
  | .error _ => .noCommand (takeCommand rest s)

/-- The event input with only the events of `m`. -/
def maskInput (e : EventInput) (m : BitVec 6) : EventInput := { e with vec := e.vec &&& m }

/-- The next operation of the instant, in the order of 60_exceptions.md R241: first the events of the steps not yet
passed, then the host's commands, then, for an event that became due after its step was passed, a second pass.
DESIGN CHOICE (log 10): a channel armed for `now_us` by an operation of an earlier step than its own is due when its own
step is reached, and is taken there, in the first pass; R241 says both that a match is evaluated at its step and that
one armed for `now_us` comes in a second pass. -/
def fetch (s : State) : Fetched :=
  match decodeEvt (maskInput s.eventInput s.env.phase.mask) with
  | .ok i => fetchEvent i s
  | .error _ =>
    match s.env.cmds with
    | w :: rest => fetchCommand w rest s
    | [] =>
      match decodeEvt s.eventInput with
      | .ok i => fetchEvent i s
      | .error _ => .quiet

/-! ## After an operation -/

/-- The consequent edge of an operation that changed the bus level, through `tx_line`: the `RX_EDGE` of the change
follows at the same instant, before any other operation (60_exceptions.md R242). If the operation did not change the
level, a change by another device at the same instant is left to step 3; if the two changes cancel there is no edge.
DESIGN CHOICE (log 11): where another device and the operation release the bus at the same instant, so that both are
needed for the change of level, its one edge is this one, at the operation's own step, and an `RX_EDGE` presented from
outside for that change is a second edge, at step 3. -/
def consequentEdge (before after : State) : State :=
  if after.lineActive != before.lineActive && after.edgeDue then
    rxEdge after.nowUs after.lineActive { after with env := { after.env with seen := after.lineActive } }
  else after

/-- After a `RESET` the other operations of the instant are discarded, and no edge is delivered for a change it made
(60_exceptions.md R241 step 1, 70_reset_and_hazards.md R270). What is discarded is all that is presented at the
instant, whichever timeline entries it came from; later entries are not of the instant (log 22). DESIGN CHOICE (log 10):
the phase is `host` afterwards, since nothing is left for an earlier step of the list. -/
def discardInstant (s : State) : State :=
  { s with env := { s.env with seen := s.lineActive, phase := .host, presented := [], cmds := [] } }

/-- What follows the operation `i` at its own instant. -/
def afterOp (i : Instr) (before after : State) : State :=
  match i with
  | .reset => discardInstant after
  | .send _ _ _ _ _ => consequentEdge before after
  | .seqStart => consequentEdge before after
  | .seqNext _ => consequentEdge before after
  | .seqExecute => consequentEdge before after
  | .reqStatus => consequentEdge before after
  | .tryReceive => consequentEdge before after
  | .isTxIdle => consequentEdge before after
  | .rxEdge _ _ => consequentEdge before after
  | .rxStopbitMatch => consequentEdge before after
  | .rxPeriodMatch => consequentEdge before after
  | .rxQueryMatch => consequentEdge before after
  | .txMatch => consequentEdge before after

/-! ## The passage of time -/

/-- How long until a channel that is not due now matches: `u32(count − now_us)` (10_state.md R35). -/
def Compare.wait (c : Compare) (nowUs : Word) : List Nat := if c.armed then [(c.count - nowUs).toNat] else []

/-- How long until the loaded pulse-table entry matches (41_transmitter.md R118). -/
def State.txWait (s : State) : List Nat :=
  if s.tx.running then [(s.tx.t0 + s.tx.entry s.tx.index - s.nowUs).toNat] else []

/-- How long until each entry of the timeline. -/
def State.timelineWait (s : State) : List Nat := s.env.timeline.map (fun i => i.time - s.env.now)

/-- Every wait that will end by itself. -/
def State.waits (s : State) : List Nat :=
  s.stopCmp.wait s.nowUs ++ s.periodCmp.wait s.nowUs ++ s.queryCmp.wait s.nowUs ++ s.txWait ++ s.timelineWait

/-- The time that passes when nothing is left to do now: up to the earliest event, or 1 µs when none will come by
itself (log 6). -/
def State.nextWait (s : State) : Nat :=
  match s.waits with
  | [] => 1
  | w :: ws => ws.foldl min w

/-- Time passes. Between operations the block's state does not change (60_exceptions.md R254); the order of
60_exceptions.md R241 begins anew at step 1. -/
def advance (s : State) : State := { s with env := { s.env with now := s.env.now + s.nextWait, phase := .reset, matched := 0 } }

/-! ## What is presented at the instant -/

/-- The events of the entries, without empty vectors. -/
def eventsOf (is : List Instant) : List EventInput := (is.map Instant.event).filter (fun e => e.vec != 0)

/-- Presenting everything of the timeline whose time has come, all of it together, so that the operations of one
instant take effect in the order of 60_exceptions.md R241 whichever entries they stand in (20_memory.md R48). Of
several changes of the bus the last counts, and it is in place before the instant's operations; its edge comes at
step 3 (60_exceptions.md R242; log 8). An entry whose time is already past is taken for one of the present time
(log 7). The compare channels due now are noted, for the matches that an operation of the instant removes (R241). -/
def presentArrived (s : State) : State :=
  let come := s.env.timeline.filter (fun i => decide (i.time ≤ s.env.now))
  { s with env := { s.env with
    ext := come.foldl (fun l i => i.bus.getD l) s.env.ext
    matched := s.env.matched ||| s.dueVector &&& 0b011110
    presented := s.env.presented ++ eventsOf come
    cmds := s.env.cmds ++ come.flatMap Instant.cmds
    timeline := s.env.timeline.filter (fun i => decide (s.env.now < i.time)) } }

end Sys2Proof.Machine
end

