-- ==== Sys2Proof/Machine/Lifecycle.lean ====
section
/-! DEFINITION. RESET (70_reset_and_hazards.md R270). -/

namespace Sys2Proof.Machine

open Sys2Proof

/-- The transmitter at reset; the pulse table's contents are not written (R270). -/
def Tx.atReset (t : Tx) : Tx :=
  { count := t.count, n := 0, countNow := 0, levelHigh := true, index := 0,
    armed := false, running := false, building := false, kind := .none, prio := 0, rep := 0,
    toggleOnMatch := false, line := false, t0 := 0 }

/-- The receiver at reset with the line idle (R270). -/
def Rx.atReset (nowUs : Word) : Rx :=
  { state := .idle, frame := RxFrame.empty, lastBit := true, lastEdge := nowUs, lastFullFrame := nowUs,
    prev := ⟨false, 0, 0, 0⟩, pendingTx := false, endIfi := 0 }

/-- Every piece of state but `rx.state` and the queue's possible first frame (R270). -/
def resetIdle (s : State) : State :=
  { s with
    tx := s.tx.atReset
    rx := Rx.atReset s.nowUs
    stopCmp := ⟨false, 0⟩
    periodCmp := ⟨false, 0⟩
    queryCmp := ⟨false, 0⟩
    q := ⟨[], false⟩ }

/-- `RESET` (R270). `line_active` is the level after `tx_line` is forced idle. -/
def reset (s : State) : State :=
  let s1 := resetIdle s
  if s1.lineActive then report .systemFailure { s1 with rx.state := .failure } else s1

/-- `RESET` (R270). -/
def execReset (s : State) : Host.Outcome State Fault Refusal := .next (reset s)

end Sys2Proof.Machine
end

