-- ==== Sys2Proof/Machine/Queue.lean ====
section
/-! DEFINITION. TRY_RECEIVE (44_frame_queue.md R214, R215). -/

namespace Sys2Proof.Machine

open Sys2Proof

/-- What the queue holds once its head is removed: the `ErrorQueueFull` marker joins at the tail when frames were
dropped (R215). -/
def queueAfterPop (rest : List RxFrame) (s : State) : FrameQueue :=
  if s.q.overflow then ⟨rest ++ [statusFrame .errorQueueFull s.nowMs], false⟩ else ⟨rest, false⟩

/-- `TRY_RECEIVE` (R214): the reply is `valid` and the frame word, all zeros when there is none
(30_encoding.md R67). -/
def tryReceive (s : State) : State :=
  match s.q.items with
  | [] => { s with replies := s.replies ++ [.received false 0] }
  | f :: rest => { s with q := queueAfterPop rest s, replies := s.replies ++ [.received true (frameWord f)] }

/-- `TRY_RECEIVE` (R214). -/
def execTryReceive (s : State) : Host.Outcome State Fault Refusal := .next (tryReceive s)

end Sys2Proof.Machine
end

