-- ==== Sys2Proof/Machine/Schedule.lean ====
section
/-! DEFINITION. The scheduler's operation RX_PERIOD_MATCH (43_scheduler.md R195). -/

namespace Sys2Proof.Machine

open Sys2Proof

/-- The period match that serves a waiting transmission in `Idle` or `InterFrameIdle` (R195). -/
def servePending (s : State) : State :=
  if s.tx.running then armRetry s else { txStart s with rx := { (txStart s).rx with state := .idle } }

/-- `RX_PERIOD_MATCH` (R195). -/
def rxPeriodMatch (s : State) : State :=
  let s1 := { s with periodCmp.armed := false }
  match s.rx.state with
  | .idle => if s.rx.pendingTx then servePending s1 else s1
  | .interFrameIdle => if s.rx.pendingTx then servePending s1 else { s1 with rx.state := .idle }
  | .startBitStart => s1
  | .startBitInside => s1
  | .dataBitStart => s1
  | .dataBitInside => s1
  | .errorInFrame => s1
  | .low => s1
  | .failure => s1

/-- `RX_PERIOD_MATCH` (R195). -/
def execRxPeriodMatch (s : State) : Host.Outcome State Fault Refusal := .next (rxPeriodMatch s)

end Sys2Proof.Machine
end

