-- ==== Sys2Proof/Machine/Transmit.lean ====
section
/-! DEFINITION. The transmitter's operations: SEND, SEQ_START, SEQ_NEXT, SEQ_EXECUTE, IS_TX_IDLE, TX_MATCH
(41_transmitter.md). -/

namespace Sys2Proof.Machine

open Sys2Proof

/-- Arming a finished table and asking the scheduler for it (R104 step 3, R115). -/
def armAndSchedule (kind : FrameKind) (prio : Fin 8) (rep : BitVec 8) (t : Tx) (s : State) : State :=
  rxScheduleTransmission { s with
    tx := { t with building := false, kind := kind, prio := prio, rep := rep, armed := true } }

/-- `SEND` (R104). -/
def send (kind : KindField) (prio : BitVec 4) (length rep : BitVec 8) (data : Word) (s : State) : State :=
  match acceptableKind kind prio length with
  | .none => report .errorBadArgument s
  | .some k =>
    if s.tx.armed then report .errorCanNotProcess s
    else
      match s.tx.encodeFrame k length.toNat data with
      | .none => tableOverflow s
      | .some t => armAndSchedule k (storedPriority k prio) rep t s

/-- `SEQ_START` (R111). -/
def seqStart (s : State) : State :=
  if s.tx.armed then report .errorCanNotProcess s
  else { s with tx := { s.tx.clearTable with building := true } }

/-- `SEQ_NEXT` (R113, R114). -/
def seqNext (periodUs : Word) (s : State) : State :=
  if s.tx.armed || !s.tx.building then report .errorCanNotProcess s
  else if periodUs = 0 then report .errorBadArgument s
  else
    match s.tx.pushPhase periodUs with
    | .none => tableOverflow s
    | .some t => { s with tx := t }

/-- `SEQ_EXECUTE` (R115). -/
def seqExecute (s : State) : State :=
  if s.tx.armed || !s.tx.building || decide (s.tx.n = 0) then report .errorCanNotProcess s
  else armAndSchedule .sequence 0 0 s.tx s

/-- `IS_TX_IDLE` (R117). -/
def isTxIdle (s : State) : State := { s with replies := s.replies ++ [.txIdle (!s.tx.armed)] }

/-- The level the compare hardware leaves on the line at a match (R120). -/
def Tx.matchedLine (t : Tx) : Level := if t.toggleOnMatch then !t.line else t.line

/-- `TX_MATCH` at an entry that is not the last (R120). -/
def nextPhase (s : State) (h : s.tx.index.val + 1 < s.tx.n.val) : State :=
  { s with
    tx := { s.tx with
      line := s.tx.matchedLine
      index := ⟨s.tx.index.val + 1, by omega⟩
      toggleOnMatch := decide (s.tx.index.val + 1 < s.tx.n.val - 1) } }

/-- The query timer at the exhaustion of a query's table (R122). -/
def armQuery (s : State) : State :=
  match s.tx.kind with
  | .query => { s with queryCmp := ⟨true, s.nowUs + tBackwardMax⟩ }
  | .none => s
  | .backward => s
  | .backToBack => s
  | .forward => s
  | .corrupt => s
  | .sequence => s

/-- `TX_MATCH` at the last entry, exhaustion (R121). -/
def exhaust (s : State) : State :=
  armQuery { s with
    tx := { s.tx with
      line := false
      running := false
      armed := decide (0 < s.tx.rep.toNat) || s.rx.pendingTx } }

/-- `TX_MATCH` (R118, R120, R121; log 13). -/
def txMatch (s : State) : State :=
  if s.tx.running then
    if h : s.tx.index.val + 1 < s.tx.n.val then nextPhase s h else exhaust s
  else s

/-- `SEND(kind, prio, length, repeat, data)` (R104). -/
def execSend (kind : KindField) (prio : BitVec 4) (length rep : BitVec 8) (data : Word) (s : State) :
    Host.Outcome State Fault Refusal := .next (send kind prio length rep data s)

/-- `SEQ_START` (R111). -/
def execSeqStart (s : State) : Host.Outcome State Fault Refusal := .next (seqStart s)

/-- `SEQ_NEXT(period_us)` (R113). -/
def execSeqNext (periodUs : Word) (s : State) : Host.Outcome State Fault Refusal := .next (seqNext periodUs s)

/-- `SEQ_EXECUTE` (R115). -/
def execSeqExecute (s : State) : Host.Outcome State Fault Refusal := .next (seqExecute s)

/-- `IS_TX_IDLE` (R117). -/
def execIsTxIdle (s : State) : Host.Outcome State Fault Refusal := .next (isTxIdle s)

/-- `TX_MATCH` (R118, R120, R121). -/
def execTxMatch (s : State) : Host.Outcome State Fault Refusal := .next (txMatch s)

end Sys2Proof.Machine
end

