-- ==== Sys2Proof/Machine/Dispatch.lean ====
section
/-! DEFINITION. The one dispatch from operations to their meanings, one arm per constructor of Instr. -/

namespace Sys2Proof.Machine

open Sys2Proof

def exec (i : Instr) (s : State) : Host.Outcome State Fault Refusal :=
  match i with
  | .send kind prio length rep data => Sys2Proof.Machine.execSend kind prio length rep data s
  | .seqStart => Sys2Proof.Machine.execSeqStart s
  | .seqNext periodUs => Sys2Proof.Machine.execSeqNext periodUs s
  | .seqExecute => Sys2Proof.Machine.execSeqExecute s
  | .reqStatus => Sys2Proof.Machine.execReqStatus s
  | .tryReceive => Sys2Proof.Machine.execTryReceive s
  | .isTxIdle => Sys2Proof.Machine.execIsTxIdle s
  | .rxEdge tCap level => Sys2Proof.Machine.execRxEdge tCap level s
  | .rxStopbitMatch => Sys2Proof.Machine.execRxStopbitMatch s
  | .rxPeriodMatch => Sys2Proof.Machine.execRxPeriodMatch s
  | .rxQueryMatch => Sys2Proof.Machine.execRxQueryMatch s
  | .txMatch => Sys2Proof.Machine.execTxMatch s
  | .reset => Sys2Proof.Machine.execReset s

end Sys2Proof.Machine
end

