-- ==== Sys2Proof/Machine/Step.lean ====
section
/-! DEFINITION. One step of the machine: the next operation of the instant, or the passage of time. And where a word
is put for the step to take it next. -/

namespace Sys2Proof.Machine

open Sys2Proof

/-- The meaning of `i`, and what follows it at the instant. -/
def runOp (i : Instr) (s : State) : Host.Outcome State Fault Refusal :=
  match exec i s with
  | .next t => .next (afterOp i s t)
  | .fault f => .fault f
  | .refused r => .refused r

/-- One step: what has come is presented, and of the operations of the instant the next is run (60_exceptions.md
R241); if none is left, time passes. -/
def step (s : State) : Host.Outcome State Fault Refusal :=
  match fetch (presentArrived s) with
  | .op i t => runOp i t
  | .noCommand t => .next (badCommand t)
  | .void t => .next t
  | .notDue i => .refused (.matchNotDue (eventBit i))
  | .quiet => .next (advance (presentArrived s))

/-- The channel of a match event made due now; the other events need none (10_state.md R35). -/
def makeDue (i : Instr) (s : State) : State :=
  match i with
  | .rxStopbitMatch => { s with stopCmp := ⟨true, s.nowUs⟩ }
  | .rxPeriodMatch => { s with periodCmp := ⟨true, s.nowUs⟩ }
  | .rxQueryMatch => { s with queryCmp := ⟨true, s.nowUs⟩ }
  | .txMatch => { s with tx.t0 := s.nowUs - s.tx.entry s.tx.index }
  | .rxEdge _ _ => s
  | .reset => s
  | .send _ _ _ _ _ => s
  | .seqStart => s
  | .seqNext _ => s
  | .seqExecute => s
  | .reqStatus => s
  | .tryReceive => s
  | .isTxIdle => s

/-- The event input `e` presented now, at the step of R241 its first operation takes effect at. -/
def presentEvent (e : EventInput) (i : Instr) (s : State) : State :=
  let t := makeDue i s
  { t with env := { t.env with phase := phaseOf i, presented := e :: t.env.presented } }

/-- A table word presented so that the next step takes it: a command word is the host's first command of this
instant, the instant's events being over; an event stands in the event vector of this instant, its channel due. -/
def State.withFetchWord (s : State) (nbits w : Nat) : State :=
  match tableWord nbits w with
  | .error _ => s
  | .ok (.cmd c) => { s with env := { s.env with phase := .host, cmds := c :: s.env.cmds } }
  | .ok (.evt e) =>
    match decodeEvt e with
    | .ok i => presentEvent e i s
    | .error _ => s

end Sys2Proof.Machine
end

