-- ==== Sys2Proof/Safety.lean ====
section
/-! DEFINITION. What the claims are stated in: the invariants of 10_state.md R38, what a frame of the queue looks like
(44_frame_queue.md R213), the waveform of a frame (41_transmitter.md R101), and the edges a receiver is given. -/

namespace Sys2Proof.Machine

open Sys2Proof

/-- A frame that carries nothing but its status and its timestamp (44_frame_queue.md R212). -/
def RxFrame.bare (f : RxFrame) : Prop := f.length = 0 ∧ f.data = 0 ∧ f.loopback = false ∧ f.twice = false

/-- A length the spec gives a frame, and no bit of the data above it (10_state.md R13). -/
def RxFrame.fits (f : RxFrame) : Prop := f.length ≤ 32 ∧ f.data.toNat < 2 ^ f.length

/-- The three kinds of frame a host can receive (44_frame_queue.md R213, 10_state.md R38 item 8): a completed frame, an
error frame with what was gathered up to the error, and a status frame with no payload. -/
def RxFrame.shaped (f : RxFrame) : Prop :=
  match f.status with
  | .ok => f.fits
  | .errorReceiveStartTiming => f.fits ∧ f.twice = false
  | .errorReceiveDataTiming => f.fits ∧ f.twice = false
  | .timeout => f.bare
  | .errorCollisionLoopbackTime => f.bare
  | .errorCollisionNoChange => f.bare
  | .errorCollisionWrongState => f.bare
  | .errorSettlingTimeViolation => f.bare
  | .systemIdle => f.bare
  | .systemFailure => f.bare
  | .systemRecover => f.bare
  | .errorCanNotProcess => f.bare
  | .errorBadArgument => f.bare
  | .errorQueueFull => f.bare
  | .errorBadCommand => f.bare

/-- The states in which no frame is in progress (10_state.md R38 item 5). -/
def RxState.frameless : RxState → Bool
  | .idle => true
  | .interFrameIdle => true
  | .errorInFrame => true
  | .low => true
  | .failure => true
  | .startBitStart => false
  | .startBitInside => false
  | .dataBitStart => false
  | .dataBitInside => false

/-- The invariants of 10_state.md R38, with R17's on the running sum, R161's "its status is `Ok`" and R11's on the type
of an armed table, which make them inductive. -/
structure State.Inv (s : State) : Prop where
  armed_nonempty : s.tx.armed = true → 1 ≤ s.tx.n.val
  table_increasing : ∀ i j : Fin 67, i < j → j.val < s.tx.n.val → (s.tx.entry i).toNat < (s.tx.entry j).toNat
  countNow_last : ∀ i : Fin 67, i.val + 1 = s.tx.n.val → s.tx.countNow = s.tx.entry i
  running_armed : s.tx.running = true → s.tx.armed = true
  building_unarmed : s.tx.building = true → s.tx.armed = false
  pending_armed : s.rx.pendingTx = true → s.tx.armed = true
  running_index : s.tx.running = true → s.tx.index.val < s.tx.n.val
  frame_length : s.rx.frame.length ≤ 32
  frame_data : s.rx.frame.data.toNat < 2 ^ s.rx.frame.length
  frame_status : s.rx.frame.status = .ok
  frame_twice : s.rx.frame.twice = false
  frame_empty : s.rx.state.frameless = true → s.rx.frame = RxFrame.empty
  queue_bound : s.q.items.length ≤ s.params.queueDepth
  line_running : s.tx.line = true → s.tx.running = true
  queue_shaped : ∀ f ∈ s.q.items, f.shaped
  armed_settles : s.tx.armed = true → (settleIndex s.tx.kind s.tx.prio).isSome = true

/-- No receive match is presented from outside, now or later: they are "produced by the compare channels ..., never by
the environment at will" (30_encoding.md R69). -/
def State.matchesInternal (s : State) : Prop :=
  (∀ e ∈ s.env.presented, e.vec &&& 0b001110 = 0) ∧ ∀ i ∈ s.env.timeline, i.event.vec &&& 0b001110 = 0

/-- What makes a `SEND` a bad argument (41_transmitter.md R104 step 1). -/
def badSendArguments (kind : KindField) (prio : BitVec 4) (length : BitVec 8) : Prop :=
  32 < length.toNat ∨ kind = .none ∨ (∃ c, kind = .reserved c) ∨
    ((kind = .forward ∨ kind = .query) ∧ ¬(1 ≤ prio.toNat ∧ prio.toNat ≤ 5))

/-- The corrected elapsed time of an edge, spelled out (42_receiver.md R141, R144). -/
def spelledElapsed (s : State) (tCap : Word) (level : Level) : Int :=
  ((tCap - s.rx.lastEdge).toNat : Int)
    + (if level = true then (1 : Int) else -1) * ((s.params.rxRiseUs : Int) - (s.params.rxFallUs : Int))

/-- The number of a step of 60_exceptions.md R241. -/
def Phase.number : Phase → Nat
  | .reset => 1
  | .txMatch => 2
  | .rxEdge => 3
  | .stopMatch => 4
  | .periodMatch => 5
  | .queryMatch => 6
  | .host => 7

/-- A host command (30_encoding.md R62, format CMD). -/
def isCommand (i : Instr) : Prop := eventBit i = 0

/-- The four states in which a frame is being decoded (42_receiver.md R160). -/
def RxState.decoding : RxState → Bool
  | .startBitStart => true
  | .startBitInside => true
  | .dataBitStart => true
  | .dataBitInside => true
  | .idle => false
  | .interFrameIdle => false
  | .errorInFrame => false
  | .low => false
  | .failure => false

/-- The timers that end the receiver's waits are armed: the stop compare in every open cycle, at the failure time in
`Low`, the period compare in a settling window and for a waiting transmission on a quiet bus (42_receiver.md R141,
R163, 43_scheduler.md R190, R191, R195). -/
structure State.Timed (s : State) : Prop where
  open_stop : s.rx.state.decoding = true ∨ s.rx.state = .errorInFrame →
    s.stopCmp = ⟨true, s.rx.lastEdge + 2400⟩
  low_stop : s.rx.state = .low → s.stopCmp = ⟨true, s.rx.lastEdge + 500000⟩
  window_period : s.rx.state = .interFrameIdle → s.periodCmp.armed = true
  pending_period : s.rx.pendingTx = true → s.rx.state = .idle → s.periodCmp.armed = true

/-- While a transmission waits in the settling window, the period compare is set for a time not before the end of its
settling time (43_scheduler.md R191, R194). -/
def State.WaitsOut (s : State) : Prop :=
  s.rx.state = .interFrameIdle → s.rx.pendingTx = true → 0 ≤ (s.periodCmp.count - s.settleEnd).toInt

/-- The reference edge of the armed transmission is recent: the remaining wait is one that a settling time can give,
not the one past the 32-bit half range that 43_scheduler.md R191 guards against, and the settling time has not been over
for 2^30 µs. -/
def State.recentReference (s : State) : Prop :=
  -(2 ^ 30) < (s.settleEnd - s.nowUs).toInt ∧ (s.settleEnd - s.nowUs).toInt ≤ 19500

/-- Where the receiver's compares may be armed: the stop compare only in an open cycle or in `Low`, the period compare
only on a quiet bus (42_receiver.md R160 corner cases, R164, 43_scheduler.md R195: a match in another state "cannot
occur"). -/
structure State.Placed (s : State) : Prop where
  stop_open : s.stopCmp.armed = true →
    s.rx.state.decoding = true ∨ s.rx.state = .errorInFrame ∨ s.rx.state = .low
  period_quiet : s.periodCmp.armed = true → s.rx.state = .idle ∨ s.rx.state = .interFrameIdle

/-- The data bits of a frame, in the order they are sent (20_memory.md R41). -/
def sentBits (data : Word) : Nat → List Bool
  | 0 => []
  | k + 1 => data.getLsbD k :: sentBits data k

/-- The waveform after the middle of a cell, at `t`, of a bit `prev`: an edge on the cell boundary and one in the
middle of the next cell when the bits are equal, one 833 µs later when they differ; at the end the stop condition,
2450 µs from the last rising edge (41_transmitter.md R101, R107, R109, R125). -/
def waveform (prev : Bool) (t : Nat) : List Bool → List Nat
  | [] => if prev then [t + 2450] else [t + 417, t + 417 + 2450]
  | b :: bs =>
    if b = prev then (t + 417) :: (t + 834) :: waveform b (t + 834) bs
    else (t + 833) :: waveform b (t + 833) bs

/-- How many bits differ from the bit before them (41_transmitter.md R125's `c`). -/
def toggles (prev : Bool) : List Bool → Nat
  | [] => 0
  | b :: bs => (if b = prev then 0 else 1) + toggles b bs

/-- The receiver given edges at `start + c` for each `c`, alternately of level `level` and its opposite. -/
def playEdges (start : Word) (level : Level) (counts : List Word) (s : State) : State :=
  match counts with
  | [] => s
  | c :: cs => playEdges start (!level) cs (rxEdge (start + c) level s)

/-- The receiver given the edges of a table started at `start`: a falling edge, then one at every entry but the last
(41_transmitter.md R125). -/
def hearTable (start : Word) (t : Tx) (s : State) : State := playEdges start true (0 :: t.table.dropLast) s

/-- The event of the bit `b` is presented at this instant: by a vector not yet taken, or by an entry of the timeline
whose time has come. -/
def State.presents (s : State) (b : BitVec 6) : Prop :=
  (∃ e ∈ s.env.presented, e.vec &&& b ≠ 0) ∨ ∃ i ∈ s.env.timeline, i.time ≤ s.env.now ∧ i.event.vec &&& b ≠ 0

/-- The state `k` µs later, nothing else changed. -/
def State.later (s : State) (k : Nat) : State := { s with env := { s.env with now := s.env.now + k } }

end Sys2Proof.Machine
end

