-- ==== Sys2Proof/Certificates/Slice0/Obligations.lean ====
section
/-! DEFINITION. The statements for the provers. -/

open Sys2Proof Sys2Proof.Machine

/-! ## Encodings (30_encoding.md) -/

/-- Decoding the encoding of a well-formed operation gives it back, every operand at every value (R61, R62, R64, R69). -/
def Obligations.DecodeOfEncodeGivesTheOperationBack : Prop :=
  ∀ i : Instr, i.wellFormed = true → decode (encode i) = .ok i

/-- What the decoder reads of a command word: a well-formed operation, `op` alone deciding whether there is one, and
no bit but those of the fields R61 lists as used by it: bits 51:48 by none, the other 60 bits not by the operations
without arguments, and by `SEQ_NEXT` only bits 31:0. -/
def Obligations.CommandDecodingReadsOnlyItsFields : Prop :=
  ∀ w : BitVec 64,
    (∀ i, decodeCmd w = .ok i → i.wellFormed = true ∧ isCommand i) ∧
    ∀ w' : BitVec 64,
      (w'.extractLsb' 52 12 = w.extractLsb' 52 12 → w'.extractLsb' 0 48 = w.extractLsb' 0 48 →
        decodeCmd w' = decodeCmd w) ∧
      (∀ op : BitVec 4, op = 2 ∨ op = 4 ∨ op = 5 ∨ op = 6 ∨ op = 7 →
        w.extractLsb' 60 4 = op → w'.extractLsb' 60 4 = op → decodeCmd w' = decodeCmd w) ∧
      (w.extractLsb' 60 4 = 3 → w'.extractLsb' 60 4 = 3 → w'.extractLsb' 0 32 = w.extractLsb' 0 32 →
        decodeCmd w' = decodeCmd w)

/-- The words of 95_test_vectors.md V30 decode to the operations they stand for. -/
def Obligations.SpecWordsDecode : Prop :=
  decodeCmd 0x13100800000000FF = .ok (.send .forward 1 8 0 0xFF) ∧
  decodeCmd 0x11000800000000A5 = .ok (.send .backward 0 8 0 0xA5) ∧
  decodeCmd 0x1320080100000090 = .ok (.send .forward 2 8 1 0x90) ∧
  decodeCmd 0x141010000000FF90 = .ok (.send .query 1 16 0 0xFF90) ∧
  decodeCmd 0x1500000000000000 = .ok (.send .corrupt 0 0 0 0) ∧
  decodeCmd 0x30000000000001A1 = .ok (.seqNext 417) ∧
  decodeCmd 0x6000000000000000 = .ok .tryReceive ∧
  decodeEvt ⟨0b000010, 0, false⟩ = .ok .rxStopbitMatch ∧
  decodeEvt ⟨0b100000, 0, false⟩ = .ok .reset

/-- Of an event vector the operation that takes effect first is decoded: its bit is set, no set bit belongs to an
earlier step of 60_exceptions.md R241, and only the empty vector is no operation (R69, R70, R71; log 16). The bits are
those of R70, the steps those of R241, a command's the seventh. -/
def Obligations.EventVectorIsTakenInOrder : Prop :=
  (∀ e : EventInput,
    (∀ i, decodeEvt e = .ok i → eventBit i ≠ 0 ∧ eventBit i &&& e.vec = eventBit i ∧
      ∀ j : Instr, eventBit j ≠ 0 → eventBit j &&& e.vec = eventBit j → (phaseOf i).number ≤ (phaseOf j).number) ∧
    (e.vec = 0 ↔ decodeEvt e = .error .noEvent) ∧
    (e.vec = 0b000001 → decodeEvt e = .ok (.rxEdge e.tCap e.level)) ∧
    (e.vec = 0b000010 → decodeEvt e = .ok .rxStopbitMatch) ∧
    (e.vec = 0b000100 → decodeEvt e = .ok .rxPeriodMatch) ∧
    (e.vec = 0b001000 → decodeEvt e = .ok .rxQueryMatch) ∧
    (e.vec = 0b010000 → decodeEvt e = .ok .txMatch) ∧
    (e.vec = 0b100000 → decodeEvt e = .ok .reset)) ∧
  (∀ i : Instr, decodeEvt ⟨eventBit i, 0, false⟩ = .error .noEvent ↔ isCommand i) ∧
  (phaseOf .reset).number = 1 ∧ (phaseOf .txMatch).number = 2 ∧ (∀ c level, (phaseOf (.rxEdge c level)).number = 3) ∧
  (phaseOf .rxStopbitMatch).number = 4 ∧ (phaseOf .rxPeriodMatch).number = 5 ∧ (phaseOf .rxQueryMatch).number = 6 ∧
  ∀ i : Instr, isCommand i → (phaseOf i).number = 7

/-- Every field of a frame lies where R68 puts it in the frame word, and the fifteen status codes are those of R65,
none above 0x0E. -/
def Obligations.FrameWordHoldsEachFieldInItsPlace : Prop :=
  (∀ f : RxFrame, f.length ≤ 32 →
    (frameWord f).extractLsb' 64 32 = f.timestamp ∧ (frameWord f).getLsbD 63 = f.loopback ∧
    (frameWord f).getLsbD 62 = f.twice ∧ (frameWord f).extractLsb' 56 6 = 0 ∧
    (frameWord f).extractLsb' 48 8 = statusCode f.status ∧ ((frameWord f).extractLsb' 40 8).toNat = f.length ∧
    (frameWord f).extractLsb' 32 8 = 0 ∧ (frameWord f).extractLsb' 0 32 = f.data ∧
    ((frameWord f).extractLsb' 48 8).toNat ≤ 0x0E) ∧
  statusCode .ok = 0x00 ∧ statusCode .timeout = 0x01 ∧ statusCode .errorReceiveStartTiming = 0x02 ∧
  statusCode .errorReceiveDataTiming = 0x03 ∧ statusCode .errorCollisionLoopbackTime = 0x04 ∧
  statusCode .errorCollisionNoChange = 0x05 ∧ statusCode .errorCollisionWrongState = 0x06 ∧
  statusCode .errorSettlingTimeViolation = 0x07 ∧ statusCode .systemIdle = 0x08 ∧ statusCode .systemFailure = 0x09 ∧
  statusCode .systemRecover = 0x0A ∧ statusCode .errorCanNotProcess = 0x0B ∧ statusCode .errorBadArgument = 0x0C ∧
  statusCode .errorQueueFull = 0x0D ∧ statusCode .errorBadCommand = 0x0E

/-! ## The step (60_exceptions.md R241, R242) -/

/-- A step runs the decoded operation, on the state `p` in which all that has come is presented. The event vector holds
the events presented from outside and those the block's own channels and its capture unit produce now: a level the
capture unit has not handed over (R233), a compare armed with `count = now_us`, a loaded table entry reached (R35); an
`RX_EDGE` not presented has `t_cap = now_us` and the bus level (R140, decision D1). The events of the instant's steps
not yet passed come first: the one they decode to is run on the state with it taken, if it is no match or its channel is
due. A presented match that is not due at its step is taken without effect if its channel was due at an earlier step of
the instant, for an operation has removed it (R241, R160), and so is a `TX_MATCH`, which is never produced otherwise (R118;
DEDUCED, log 9); another receive match is refused (93_implementation_defined.md; log 9). When no such event is left, the host's next command word is decoded and
run on the state with it taken; when no command is left either, an event of a step already passed is run, which is
R241's second pass of the list. What follows an operation at its instant follows it in the same step (R241; the model's
phase pointer, second pass and the turn of equal events, log 10, log 28, and same-step consequent edge, log 11). In
particular a change of the bus made by another device reaches the receiver: with no `RESET`, `TX_MATCH` or `RX_EDGE`
presented and no step before 3 left to do, a step runs `RX_EDGE(now_us, line_active)`, once. An `RX_EDGE` presented
from outside stands for the captured edge of its instant: its arguments are the ones taken, and the level counts as handed over after it (the model's choice, log 24). -/
def Obligations.StepRunsTheDecodedOperation : Prop :=
  ∀ s : State,
    let p := presentArrived s
    ((∀ k, p.eventInput.vec.getLsbD k = true ↔
        (∃ e ∈ p.env.presented, e.vec.getLsbD k = true) ∨ p.dueVector.getLsbD k = true) ∧
      (∀ pre e post, p.env.presented = pre ++ e :: post → (∀ x ∈ pre, x.vec.getLsbD 0 = false) →
        e.vec.getLsbD 0 = true → p.eventInput.tCap = e.tCap ∧ p.eventInput.level = e.level) ∧
      ((∀ x ∈ p.env.presented, x.vec.getLsbD 0 = false) →
        p.eventInput.tCap = p.nowUs ∧ p.eventInput.level = p.lineActive)) ∧
    ((p.dueVector.getLsbD 0 = true ↔ p.lineActive ≠ p.env.seen) ∧
      (p.dueVector.getLsbD 1 = true ↔ p.stopCmp = ⟨true, p.nowUs⟩) ∧
      (p.dueVector.getLsbD 2 = true ↔ p.periodCmp = ⟨true, p.nowUs⟩) ∧
      (p.dueVector.getLsbD 3 = true ↔ p.queryCmp = ⟨true, p.nowUs⟩) ∧
      (p.dueVector.getLsbD 4 = true ↔ p.tx.running = true ∧ p.nowUs - p.tx.t0 = p.tx.entry p.tx.index) ∧
      p.dueVector.getLsbD 5 = false) ∧
    (∀ i : Instr,
      (eventAllowed i p = true ↔
        (i = .rxStopbitMatch → p.stopCmp = ⟨true, p.nowUs⟩) ∧ (i = .rxPeriodMatch → p.periodCmp = ⟨true, p.nowUs⟩) ∧
        (i = .rxQueryMatch → p.queryCmp = ⟨true, p.nowUs⟩) ∧
        (i = .txMatch → p.tx.running = true → p.nowUs - p.tx.t0 = p.tx.entry p.tx.index)) ∧
      (matchVoid i p = true ↔
        i = .txMatch ∨ ∃ k, (eventBit i).getLsbD k = true ∧ p.env.matched.getLsbD k = true) ∧
      (eventBit i &&& p.env.phase.mask = eventBit i ↔ isCommand i ∨ p.env.phase.number ≤ (phaseOf i).number)) ∧
    (∀ i : Instr,
      let u := takeEvent i p
      u = { p with env := { p.env with
        seen := if eventBit i = 1 then p.lineActive else p.env.seen
        phase := u.env.phase
        presented := u.env.presented } } ∧
      (∀ pre e post, p.env.presented = pre ++ e :: post → (∀ x ∈ pre, x.vec &&& eventBit i = 0) →
        e.vec &&& eventBit i ≠ 0 → u.env.presented =
          pre ++ if e.vec &&& ~~~ eventBit i = 0 then post else ⟨e.vec &&& ~~~ eventBit i, e.tCap, e.level⟩ :: post) ∧
      ((∀ x ∈ p.env.presented, x.vec &&& eventBit i = 0) → u.env.presented = p.env.presented) ∧
      ((∃ x ∈ u.env.presented, x.vec &&& eventBit i ≠ 0) → u.env.phase.number = (phaseOf i).number) ∧
      ((∀ x ∈ u.env.presented, x.vec &&& eventBit i = 0) → u.env.phase.number = min 7 ((phaseOf i).number + 1))) ∧
    (∀ (t : State) (i : Instr),
      let second := decodeEvt (maskInput p.eventInput p.env.phase.mask) = .error .noEvent ∧ p.env.cmds = [] ∧
        decodeEvt p.eventInput = .ok i
      decodeEvt (maskInput p.eventInput p.env.phase.mask) = .ok i ∨ second →
        (eventAllowed i p = true → exec i (takeEvent i p) = .next t →
          step s = .next (afterOp i (takeEvent i p) t)) ∧
        (eventAllowed i p = false → matchVoid i p = true → step s = .next (takeEvent i p)) ∧
        (eventAllowed i p = false → matchVoid i p = false → step s = .refused (.matchNotDue (eventBit i)))) ∧
    (∀ (t : State) (i : Instr) (w : BitVec 64) (rest : List (BitVec 64)),
      let taken : State := { p with env := { p.env with phase := .host, cmds := rest } }
      decodeEvt (maskInput p.eventInput p.env.phase.mask) = .error .noEvent → p.env.cmds = w :: rest →
      decodeCmd w = .ok i → exec i taken = .next t → step s = .next (afterOp i taken t)) ∧
    ((∀ x ∈ p.env.presented, x.vec &&& 0b110001 = 0) → p.lineActive ≠ p.env.seen → p.env.phase.number ≤ 3 →
      p.env.phase = .rxEdge ∨ p.dueVector.getLsbD 4 = false →
      ∃ v : State, exec (.rxEdge p.nowUs p.lineActive)
          { p with env := { p.env with seen := p.lineActive, phase := .stopMatch } } = .next v ∧
        step s = .next v ∧ v.env.seen = v.lineActive)

/-- A table word presented by `withFetchWord` is what the very next step takes and runs, whatever else is presented at
that instant (the model's own interface, log 7). -/
def Obligations.PresentedTableWordRunsNext : Prop :=
  ∀ (s : State) (nbits w : Nat) (i : Instr), decodeTableWord nbits w = some i →
    ∃ u : State, fetch (presentArrived (s.withFetchWord nbits w)) = .op i u ∧ step (s.withFetchWord nbits w) = runOp i u ∧
      u.rx = s.rx ∧ u.q = s.q ∧ u.params = s.params ∧ u.env.now = s.env.now ∧
      u.env.timeline = s.env.timeline.filter (fun i => decide (s.env.now < i.time))

/-- A command word whose `op` is reserved, and no other, selects no operation: the block reports `ErrorBadCommand`
and changes nothing else (R63). The model's choice, not R63's, is the state beside the queue: all entries of the instant
are presented first (log 7, log 28), the word is taken from the commands and the phase of the instant is then `host`, the
step of the commands (log 10). -/
def Obligations.ReservedOpReportsBadCommand : Prop :=
  (∀ w : BitVec 64, (∃ i, decodeCmd w = .ok i) ↔ 1 ≤ (opField w).toNat ∧ (opField w).toNat ≤ 7) ∧
  ∀ (s : State) (w : BitVec 64) (rest : List (BitVec 64)),
    let p := presentArrived s
    decodeEvt (maskInput p.eventInput p.env.phase.mask) = .error .noEvent → p.env.cmds = w :: rest →
    ((opField w).toNat = 0 ∨ 8 ≤ (opField w).toNat) →
    step s = .next { takeCommand rest p with q := (enqueue ⟨false, false, .errorBadCommand, 0, 0, s.nowMs⟩ s).q }

/-- `RESET` comes first at its instant and the other operations of the instant are discarded, whichever timeline
entries presented them (R241 step 1). That what lies later in the timeline stays is the model's reading of "the other
operations of the instant" (log 22, DEDUCED), and that an entry already past counts as one of the instant is its choice
(log 7, log 28). -/
def Obligations.ResetDiscardsTheRestOfItsInstant : Prop :=
  ∀ s : State, s.env.phase = .reset → s.presents 0b100000 →
    ∃ t : State, step s = .next t ∧ t.env.cmds = [] ∧ t.env.presented = [] ∧
      t.env.timeline = s.env.timeline.filter (fun i => decide (s.env.now < i.time)) ∧
      t.dueVector = 0 ∧ t.tx.armed = false ∧ t.tx.line = false

/-- The consequent edge: when an operation other than `RESET` changes `tx_line` and with it the bus level, so that it is
not the one last handed over, the `RX_EDGE` of the change is delivered at the same instant, before any other operation (R242). The bus level
the receiver reads: active exactly if an external device or, with `LOOPBACK_ENV`, the block's own transmitter drives the
bus active (decision D46; without `LOOPBACK_ENV` the external devices alone, the model's choice, log 4); so an
operation changes it exactly by a change of `tx_line` while loopback is on and no other device drives the bus. If the
level is not changed by the operation, an edge due for another device's change is left to its own step (what follows if
both were needed for the change is the model's choice, log 11). -/
def Obligations.ConsequentEdgeFollowsItsOperation : Prop :=
  (∀ s : State, s.lineActive = true ↔ s.env.ext = true ∨ (s.tx.line = true ∧ s.params.loopback = true)) ∧
  ∀ (s t : State) (i : Instr), i ≠ .reset → exec i s = .next t →
    (t.lineActive ≠ s.lineActive ↔ t.tx.line ≠ s.tx.line ∧ s.params.loopback = true ∧ s.env.ext = false) ∧
    (t.lineActive ≠ s.lineActive → t.lineActive ≠ t.env.seen →
      ∃ v, exec (.rxEdge t.nowUs t.lineActive) { t with env := { t.env with seen := t.lineActive } } = .next v ∧
        runOp i s = .next v ∧ v.env.seen = v.lineActive) ∧
    (t.lineActive = s.lineActive ∨ t.lineActive = t.env.seen → runOp i s = .next t)

/-- Totality (R247): while no receive match is presented from outside, every step answers a next state (one presented
though not due is refused, log 9). -/
def Obligations.EveryStepAnswersANextState : Prop :=
  ∀ s : State, s.matchesInternal → ∃ t, step s = .next t ∧ t.matchesInternal

/-- What is presented, and when time passes. All of the timeline whose time has come is presented together, in the
order of the timeline: the event vectors and the command words are added to those of the instant, the last change of the
bus counts (the model's interface, log 7, log 8, log 28), and the channels due are noted (log 9). Time passes when nothing is left to do, no event presented or
due and no command, and only then, up to the earliest instant at which something is: no channel is due and nothing of
the timeline comes in between, and one is due, or something has come, at the end (10_state.md R35; that a step passes
over the time in which nothing happens is the model's choice, log 6). Then the steps of R241 begin anew. The two clocks
the operations read are the time in µs modulo 2^32 and the whole ms modulo 2^32 (00_scope.md R6). -/
def Obligations.TimePassesToTheNextEvent : Prop :=
  ∀ s : State,
    let p := presentArrived s
    let come := s.env.timeline.filter (fun i => decide (i.time ≤ s.env.now))
    (s.nowUs.toNat = s.env.now % 2 ^ 32 ∧ s.nowMs.toNat = s.env.now / 1000 % 2 ^ 32) ∧
    p = { s with env := { s.env with
      ext := p.env.ext
      matched := s.env.matched ||| p.dueVector &&& 0b011110
      presented := s.env.presented ++ (come.map (fun i => i.event)).filter (fun e => e.vec != 0)
      cmds := s.env.cmds ++ come.flatMap (fun i => i.cmds)
      timeline := s.env.timeline.filter (fun i => decide (s.env.now < i.time)) } } ∧
    (∀ pre i post l, come = pre ++ i :: post → i.bus = some l → (∀ x ∈ post, x.bus = none) → p.env.ext = l) ∧
    ((∀ x ∈ come, x.bus = none) → p.env.ext = s.env.ext) ∧
    (fetch p = .quiet ↔ (∀ e ∈ p.env.presented, e.vec = 0) ∧ p.dueVector = 0 ∧ p.env.cmds = []) ∧
    (fetch p = .quiet →
      step s = .next { p with env := { p.env with now := p.env.now + p.nextWait, phase := .reset, matched := 0 } } ∧
      0 < p.nextWait ∧
      (∀ k, 0 < k → k < p.nextWait →
        (p.later k).dueVector = 0 ∧ ∀ i ∈ p.env.timeline, p.env.now + k < i.time) ∧
      (p.waits ≠ [] → (p.later p.nextWait).dueVector ≠ 0 ∨
        ∃ i ∈ p.env.timeline, i.time ≤ p.env.now + p.nextWait))

/-- Between operations the block's state does not change (R254), and no operation changes the parameters or the
inputs, and none, not even `RESET`, does more to the host's replies than append to them (that returned values go to a
list of replies which `RESET` does not clear is the model's choice, log 14). -/
def Obligations.OperationsKeepParametersAndInputs : Prop :=
  (∀ (i : Instr) (s t : State), exec i s = .next t →
    t.params = s.params ∧ t.env = s.env ∧ s.replies <+: t.replies) ∧
  ∀ s t : State, fetch (presentArrived s) = .quiet → step s = .next t → t = { s with env := t.env }

/-! ## Transmitter (41_transmitter.md) -/

/-- `SEND` (R104): a bad argument is reported first; else a busy transmitter is; else the table is built, never
overflowing, the transmitter armed with the frame's type and repeat count, and the scheduler asked. Building the table
writes nothing of the transmitter but `count[]`, `n`, `count_now` and `level_high` ("State written when accepted"). -/
def Obligations.SendFollowsItsRule : Prop :=
  (sendKind .forward = some .forward ∧ sendKind .query = some .query ∧ sendKind .backward = some .backward ∧
    sendKind .backToBack = some .backToBack ∧ sendKind .corrupt = some .corrupt ∧ sendKind .none = none ∧
    ∀ c, sendKind (.reserved c) = none) ∧
  ∀ (kind : KindField) (prio : BitVec 4) (length rep : BitVec 8) (data : Word) (s : State),
    (badSendArguments kind prio length → exec (.send kind prio length rep data) s = .next (report .errorBadArgument s)) ∧
    (¬badSendArguments kind prio length → s.tx.armed = true →
      exec (.send kind prio length rep data) s = .next (report .errorCanNotProcess s)) ∧
    (¬badSendArguments kind prio length → s.tx.armed = false →
      ∃ (k : FrameKind) (p : Fin 8) (t : Tx), sendKind kind = some k ∧
        p.val = (if k = .forward ∨ k = .query then prio.toNat else 0) ∧
        s.tx.encodeFrame k length.toNat data = some t ∧
        t = { s.tx with count := t.count, n := t.n, countNow := t.countNow, levelHigh := t.levelHigh } ∧
        exec (.send kind prio length rep data) s = .next (rxScheduleTransmission { s with
          tx := { t with building := false, kind := k, prio := p, rep := rep, armed := true } }))

/-- The table of a frame is its waveform: every entry is the end of a phase of the Manchester signal of the start bit
and the bits most significant first, with the stop condition at the end (R101, R102, R107, R108, R109). -/
def Obligations.SendTableIsTheWaveform : Prop :=
  ∀ (t : Tx) (k : FrameKind) (length : Nat) (data : Word), k ≠ .corrupt → length ≤ 32 →
    ∃ t' : Tx, t.encodeFrame k length data = some t' ∧
      t'.table.map BitVec.toNat = 417 :: waveform true 417 (sentBits data length)

/-- The size and the end of a frame's table (R125): `2 + 2L − c + z` entries, the last at
`834 (L + 1) − c + 2450 − 417 (1 − z)`; never more than 66 entries, never past 29971. -/
def Obligations.SendTableSizeAndEnd : Prop :=
  ∀ (t t' : Tx) (k : FrameKind) (length : Nat) (data : Word), k ≠ .corrupt → length ≤ 32 →
    t.encodeFrame k length data = some t' →
    let c := toggles true (sentBits data length)
    let z := if 1 ≤ length ∧ data.getLsbD 0 = false then 1 else 0
    t'.n.val + c = 2 + 2 * length + z ∧ t'.n.val ≤ 66 ∧ t'.countNow.toNat ≤ 29971 ∧
      t'.countNow.toNat + c + 417 * (1 - z) = 834 * (length + 1) + 2450 ∧
      ∀ i : Fin 67, i.val + 1 = t'.n.val → t'.entry i = t'.countNow

/-- A `Corrupt` `SEND`: its length is checked, its table is `[417, 834, 2334, 4784]` whatever length and data are
(R110). -/
def Obligations.CorruptSendTable : Prop :=
  ∀ (prio : BitVec 4) (length rep : BitVec 8) (data : Word) (s : State),
    (32 < length.toNat → exec (.send .corrupt prio length rep data) s = .next (report .errorBadArgument s)) ∧
    (length.toNat ≤ 32 → s.tx.armed = false →
      ∃ t, exec (.send .corrupt prio length rep data) s = .next t ∧
        t.tx.table = [417, 834, 2334, 4784] ∧ t.tx.kind = .corrupt ∧ t.tx.rep = rep)

/-- `SEQ_START` (R111): refused while armed, else the table is cleared and a construction begins. -/
def Obligations.SeqStartFollowsItsRule : Prop :=
  ∀ s : State,
    (s.tx.armed = true → exec .seqStart s = .next (report .errorCanNotProcess s)) ∧
    (s.tx.armed = false → exec .seqStart s = .next { s with
      tx := { s.tx with n := 0, countNow := 0, levelHigh := true, building := true } })

/-- `SEQ_NEXT` (R113, R106): refused while armed or with no construction; a zero period is a bad argument; a full
table or a running sum of 2^32 ends the construction; else one entry, the running sum, is appended. -/
def Obligations.SeqNextFollowsItsRule : Prop :=
  ∀ (p : Word) (s : State),
    (s.tx.armed = true ∨ s.tx.building = false → exec (.seqNext p) s = .next (report .errorCanNotProcess s)) ∧
    (s.tx.armed = false → s.tx.building = true → p = 0 →
      exec (.seqNext p) s = .next (report .errorBadArgument s)) ∧
    (s.tx.armed = false → s.tx.building = true → p ≠ 0 →
      s.tx.n.val = 67 ∨ 2 ^ 32 ≤ s.tx.countNow.toNat + p.toNat →
      exec (.seqNext p) s = .next { report .errorCanNotProcess s with
        tx := { s.tx with n := 0, countNow := 0, levelHigh := true, building := false } }) ∧
    (s.tx.armed = false → s.tx.building = true → p ≠ 0 → ∀ h : s.tx.n.val < 67,
      s.tx.countNow.toNat + p.toNat < 2 ^ 32 →
      exec (.seqNext p) s = .next { s with
        tx := { s.tx with
          countNow := s.tx.countNow + p
          count := s.tx.count.set s.tx.n.val (s.tx.countNow + p) h
          n := ⟨s.tx.n.val + 1, by omega⟩ } })

/-- `SEQ_EXECUTE` (R115): refused while armed, with no construction or with no phase pushed; else the table is armed
as a sequence, never repeated, and the scheduler asked. -/
def Obligations.SeqExecuteFollowsItsRule : Prop :=
  ∀ s : State,
    (s.tx.armed = true ∨ s.tx.building = false ∨ s.tx.n = 0 →
      exec .seqExecute s = .next (report .errorCanNotProcess s)) ∧
    (s.tx.armed = false → s.tx.building = true → s.tx.n ≠ 0 →
      exec .seqExecute s = .next (rxScheduleTransmission { s with
        tx := { s.tx with building := false, kind := .sequence, prio := 0, rep := 0, armed := true } }))

/-- `IS_TX_IDLE` (R117) answers not `tx.armed` and changes nothing; that the answer is appended to a list of replies is
the model's choice (log 14). -/
def Obligations.IsTxIdleAnswersNotArmed : Prop :=
  ∀ s : State, exec .isTxIdle s = .next { s with replies := s.replies ++ [.txIdle (!s.tx.armed)] }

/-- `TX_MATCH` at an entry that is not the last (R120): the line toggles if it was set to, the next entry is loaded,
and toggling is off for the last one. -/
def Obligations.TxMatchLoadsTheNextEntry : Prop :=
  ∀ s : State, s.tx.running = true → ∀ h : s.tx.index.val + 1 < s.tx.n.val,
    exec .txMatch s = .next { s with
      tx := { s.tx with
        line := xor s.tx.line s.tx.toggleOnMatch
        index := ⟨s.tx.index.val + 1, by omega⟩
        toggleOnMatch := decide (s.tx.index.val + 1 < s.tx.n.val - 1) } }

/-- `TX_MATCH` at the last entry (R121, R122): the line is forced idle, the timer stopped, a query's timer armed
13400 µs ahead, and the transmitter stays armed only for a repeat that is outstanding. -/
def Obligations.TxMatchExhaustsTheTable : Prop :=
  ∀ s : State, s.tx.running = true → s.tx.index.val + 1 = s.tx.n.val →
    exec .txMatch s = .next { s with
      tx := { s.tx with
        line := false
        running := false
        armed := decide (s.tx.rep ≠ 0) || s.rx.pendingTx }
      queryCmp := if s.tx.kind = .query then ⟨true, s.nowUs + 13400⟩ else s.queryCmp }

/-- A `TX_MATCH` presented while the transmit timer is stopped has no effect (R118). -/
def Obligations.TxMatchWhileStoppedHasNoEffect : Prop :=
  ∀ s : State, s.tx.running = false → exec .txMatch s = .next s

/-- A transmission, once started, runs to its end: no operation but `RESET` and the last entry's `TX_MATCH` stops it,
moves it or changes the line (R100). -/
def Obligations.RunningTransmissionIsNotCancelled : Prop :=
  ∀ (i : Instr) (s t : State), s.Inv → s.tx.running = true → i ≠ .reset → exec i s = .next t →
    (t.tx.running = false → i = .txMatch ∧ s.tx.index.val + 1 = s.tx.n.val) ∧
    (i ≠ .txMatch → t.tx.index = s.tx.index ∧ t.tx.line = s.tx.line ∧ t.tx.t0 = s.tx.t0 ∧
      t.tx.toggleOnMatch = s.tx.toggleOnMatch)

/-- After as many `TX_MATCH`es as entries are left, and no fewer, a running transmission is over (R120, R121). -/
def Obligations.TransmissionEndsAfterItsLastEntry : Prop :=
  ∀ s : State, s.Inv → s.tx.running = true →
    (∀ k, k < s.tx.n.val - s.tx.index.val → (txMatch^[k] s).tx.running = true ∧
      (txMatch^[k] s).tx.index.val = s.tx.index.val + k) ∧
    (txMatch^[s.tx.n.val - s.tx.index.val] s).tx.running = false ∧
    (txMatch^[s.tx.n.val - s.tx.index.val] s).tx.line = false

/-- While the transmitter is armed no operation but `RESET` changes the pulse table, its size or the frame type: the
commands that write it are refused (20_memory.md R51). -/
def Obligations.ArmedTableIsNotWritten : Prop :=
  ∀ (i : Instr) (s t : State), s.tx.armed = true → i ≠ .reset → exec i s = .next t →
    t.tx.count = s.tx.count ∧ t.tx.n = s.tx.n ∧ t.tx.kind = s.tx.kind ∧ t.tx.prio = s.tx.prio ∧
    t.tx.building = s.tx.building

/-- `tx.armed` (10_state.md R19): set only by an accepted `SEND` or `SEQ_EXECUTE`, cleared only by `RESET` or by the
`TX_MATCH` that exhausts the table when no repeat and no restart is outstanding. -/
def Obligations.ArmedIsSetAndClearedByItsRules : Prop :=
  ∀ (i : Instr) (s t : State), s.Inv → exec i s = .next t →
    (s.tx.armed = false → t.tx.armed = true →
      i = .seqExecute ∨ ∃ kind prio length rep data, i = .send kind prio length rep data) ∧
    (s.tx.armed = true → t.tx.armed = false →
      i = .reset ∨ (i = .txMatch ∧ s.tx.running = true ∧ s.tx.index.val + 1 = s.tx.n.val ∧ s.tx.rep = 0 ∧
        s.rx.pendingTx = false))

/-! ## Receiver (42_receiver.md) -/

/-- The start edge (R142, R141). -/
def Obligations.StartEdgeBeginsAFrame : Prop :=
  ∀ (s : State) (c : Word), s.rx.state = .idle ∨ s.rx.state = .interFrameIdle →
    exec (.rxEdge c true) s = .next { s with
      rx := { s.rx with
        state := .startBitStart
        frame := ⟨s.tx.armed, false, .ok, 0, 0, s.nowMs⟩
        lastBit := true
        lastEdge := c }
      stopCmp := ⟨true, c + 2400⟩
      periodCmp := { s.periodCmp with armed := false }
      queryCmp := { s.queryCmp with armed := false } }

/-- Ignored edges change nothing (R143); `ErrorInFrame` absorbs every edge, moving only the last edge and the stop
compare (R151). -/
def Obligations.EdgesThatDecodeNothing : Prop :=
  ∀ (s : State) (c : Word) (level : Level),
    ((level = false ∧ (s.rx.state = .idle ∨ s.rx.state = .interFrameIdle)) ∨
      (level = true ∧ (s.rx.state = .low ∨ s.rx.state = .failure)) →
      exec (.rxEdge c level) s = .next s) ∧
    (s.rx.state = .errorInFrame →
      exec (.rxEdge c level) s = .next { s with rx := { s.rx with lastEdge := c }, stopCmp := ⟨true, c + 2400⟩ })

/-- The edge in `StartBitStart` (R145): inside the begin window it is the middle of the start bit, else a start
timing error. -/
def Obligations.StartBitEdgeIsTimed : Prop :=
  ∀ (s : State) (c : Word) (level : Level), s.rx.state = .startBitStart →
    let ec := spelledElapsed s c level
    (325 ≤ ec ∧ ec ≤ 508 → exec (.rxEdge c level) s = .next { s with
      rx := { s.rx with lastEdge := c, state := .startBitInside }, stopCmp := ⟨true, c + 2400⟩ }) ∧
    (¬(325 ≤ ec ∧ ec ≤ 508) →
      exec (.rxEdge c level) s = .next (rxError .errorReceiveStartTiming { s with
        rx := { s.rx with lastEdge := c }, stopCmp := ⟨true, c + 2400⟩ }))

/-- The edge in `StartBitInside` and in `DataBitInside` (R146, R148): a half bit is a cell boundary, a full bit the
middle of a cell whose value toggled, anything else a data timing error. -/
def Obligations.InsideEdgeIsTimed : Prop :=
  ∀ (s : State) (c : Word) (level : Level), s.rx.state = .startBitInside ∨ s.rx.state = .dataBitInside →
    let ec := spelledElapsed s c level
    (325 ≤ ec ∧ ec ≤ 508 → exec (.rxEdge c level) s = .next { s with
      rx := { s.rx with lastEdge := c, state := .dataBitStart }, stopCmp := ⟨true, c + 2400⟩ }) ∧
    (658 ≤ ec ∧ ec ≤ 1008 → exec (.rxEdge c level) s = .next (captureBit (!s.rx.lastBit) { s with
      rx := { s.rx with lastEdge := c, lastBit := !s.rx.lastBit }, stopCmp := ⟨true, c + 2400⟩ })) ∧
    (¬(325 ≤ ec ∧ ec ≤ 508) → ¬(658 ≤ ec ∧ ec ≤ 1008) →
      exec (.rxEdge c level) s = .next (rxError .errorReceiveDataTiming { s with
        rx := { s.rx with lastEdge := c }, stopCmp := ⟨true, c + 2400⟩ }))

/-- The edge in `DataBitStart` (R147): a half bit is the middle of a cell of the same value, anything else, a full bit
too, a data timing error. -/
def Obligations.BoundaryEdgeIsTimed : Prop :=
  ∀ (s : State) (c : Word) (level : Level), s.rx.state = .dataBitStart →
    let ec := spelledElapsed s c level
    (325 ≤ ec ∧ ec ≤ 508 → exec (.rxEdge c level) s = .next (captureBit s.rx.lastBit { s with
      rx := { s.rx with lastEdge := c }, stopCmp := ⟨true, c + 2400⟩ })) ∧
    (¬(325 ≤ ec ∧ ec ≤ 508) →
      exec (.rxEdge c level) s = .next (rxError .errorReceiveDataTiming { s with
        rx := { s.rx with lastEdge := c }, stopCmp := ⟨true, c + 2400⟩ }))

/-- `capture_bit` (R149) and `rx_error` (R150): bits accumulate most significant first, up to 32; the 33rd is a data
timing error. An error queues the frame in progress with its status, at once and never marked `twice`, empties it, and
leaves the receiver absorbing edges. -/
def Obligations.BitsAccumulateAndErrorsQueueTheFrame : Prop :=
  ∀ (s : State) (b : Bool) (st : Status),
    (s.rx.frame.length < 32 → captureBit b s = { s with
      rx := { s.rx with
        state := .dataBitInside
        frame := { s.rx.frame with
          length := s.rx.frame.length + 1
          data := (s.rx.frame.data <<< 1) ||| (if b then 1#32 else 0#32) } } }) ∧
    (32 ≤ s.rx.frame.length → captureBit b s = rxError .errorReceiveDataTiming s) ∧
    rxError st s = { s with
      q := (enqueue ⟨s.rx.frame.loopback, s.rx.frame.twice, st, s.rx.frame.length, s.rx.frame.data,
        s.rx.frame.timestamp⟩ s).q
      rx := { s.rx with frame := ⟨false, false, .ok, 0, 0, 0⟩, state := .errorInFrame } } ∧
    (s.Inv → (rxError st s).q = (enqueue ⟨s.rx.frame.loopback, false, st, s.rx.frame.length, s.rx.frame.data,
      s.rx.frame.timestamp⟩ s).q)

/-- Recovery (R152): the rising edge in `Low` or `Failure` reports `SystemRecover` and ends in `ErrorInFrame`. -/
def Obligations.RisingEdgeReportsRecovery : Prop :=
  ∀ (s : State) (c : Word), s.rx.state = .low ∨ s.rx.state = .failure →
    exec (.rxEdge c false) s = .next { s with
      rx := { s.rx with lastEdge := c, state := .errorInFrame }
      stopCmp := ⟨true, c + 2400⟩
      q := (enqueue ⟨false, false, .systemRecover, 0, 0, s.nowMs⟩ s).q }

/-- Completion (R161): a stop match with the line idle in a decode state queues the frame, marked `twice` by the
previous completed one, remembers it and its last edge, and schedules the settling window. -/
def Obligations.StopMatchCompletesTheFrame : Prop :=
  ∀ s : State, s.rx.state.decoding = true → s.lineActive = false →
    ∃ f : RxFrame, f = { s.rx.frame with
        twice := s.rx.prev.valid && decide (s.rx.prev.length = s.rx.frame.length ∧
          s.rx.prev.data = s.rx.frame.data ∧
          (s.rx.frame.timestamp - s.rx.prev.timestamp).toNat ≤ s.params.maxTwiceDelayMs) } ∧
      exec .rxStopbitMatch s = .next (scheduleSettlingTimeout { s with
        stopCmp := { s.stopCmp with armed := false }
        q := (enqueue f s).q
        rx := { s.rx with
          prev := ⟨true, f.length, f.data, f.timestamp⟩
          lastFullFrame := s.rx.lastEdge
          frame := ⟨false, false, .ok, 0, 0, 0⟩ } })

/-- Close-out without a frame (R162); and the cells of the stop-match table with the line idle that have no effect but
the disarming (R160). -/
def Obligations.StopMatchClosesOutWithoutAFrame : Prop :=
  ∀ s : State, s.lineActive = false →
    (s.rx.state = .errorInFrame ∨ s.rx.state = .low ∨ s.rx.state = .failure →
      exec .rxStopbitMatch s = .next (scheduleSettlingTimeout { s with
        stopCmp := { s.stopCmp with armed := false }
        rx := { s.rx with frame := ⟨false, false, .ok, 0, 0, 0⟩ } })) ∧
    (s.rx.state = .idle ∨ s.rx.state = .interFrameIdle →
      exec .rxStopbitMatch s = .next { s with stopCmp := { s.stopCmp with armed := false } })

/-- Entering `Low` (R163): a stop match with the line active drops the frame in progress without a report and arms the
failure timer 500000 µs after the last accepted edge. -/
def Obligations.StopMatchWithTheLineActiveEntersLow : Prop :=
  ∀ s : State, s.rx.state ≠ .low → s.rx.state ≠ .failure → s.lineActive = true →
    exec .rxStopbitMatch s = .next { s with
      stopCmp := ⟨true, s.rx.lastEdge + 500000⟩
      rx := { s.rx with frame := ⟨false, false, .ok, 0, 0, 0⟩, state := .low } }

/-- Bus failure (R164): reported on the stop match in `Low` with the line active, once: the compare is left disarmed,
and in `Failure` a stop match with the line active reports nothing. -/
def Obligations.BusFailureIsReportedOnce : Prop :=
  ∀ s : State, s.lineActive = true →
    (s.rx.state = .low → exec .rxStopbitMatch s = .next { s with
      stopCmp := { s.stopCmp with armed := false }
      rx := { s.rx with state := .failure }
      q := (enqueue ⟨false, false, .systemFailure, 0, 0, s.nowMs⟩ s).q }) ∧
    (s.rx.state = .failure → exec .rxStopbitMatch s = .next { s with
      stopCmp := { s.stopCmp with armed := false } })

/-- The two sources of `Timeout`: `RX_QUERY_MATCH` on a quiet bus (R166), and `REQ_STATUS` in `Idle` (R168). -/
def Obligations.TimeoutIsReportedOnAQuietBus : Prop :=
  ∀ s : State,
    (s.rx.state = .idle ∨ s.rx.state = .interFrameIdle → exec .rxQueryMatch s = .next { s with
      queryCmp := { s.queryCmp with armed := false }
      q := (enqueue ⟨false, false, .timeout, 0, 0, s.nowMs⟩ s).q }) ∧
    (s.rx.state ≠ .idle → s.rx.state ≠ .interFrameIdle → exec .rxQueryMatch s = .next { s with
      queryCmp := { s.queryCmp with armed := false } }) ∧
    (s.rx.state = .idle → exec .reqStatus s = .next { s with
      q := (enqueue ⟨false, false, .timeout, 0, 0, s.nowMs⟩ s).q }) ∧
    (s.rx.state ≠ .idle → exec .reqStatus s = .next s)

/-- The waits of the receiver are always timed (R141, R163, R190, R191, R195): every step keeps the stop compare armed
in an open cycle, and the period compare in a settling window and for a transmission waiting on a quiet bus. And they
are long enough (R194): as long as the reference edge is recent, every step keeps the period compare of a transmission
that waits in a settling window at a time not before the end of its settling time, retries included; so the period match
that starts it comes at an instant with `sdiff(now_us, end) ≥ 0`. -/
def Obligations.EveryStepKeepsTheWaitsTimed : Prop :=
  (∀ s t : State, s.Timed → step s = .next t → t.Timed) ∧
  (∀ s t : State, s.WaitsOut → step s = .next t → t.recentReference → t.WaitsOut) ∧
  ∀ s u : State, s.WaitsOut → fetch (presentArrived s) = .op .rxPeriodMatch u →
    s.rx.state = .interFrameIdle → s.rx.pendingTx = true → 0 ≤ (u.nowUs - u.settleEnd).toInt ∧ u.settled = true

/-- Headline (20_memory.md R41, R42, 40_timing_tables.md R97): the table of a frame, heard by a receiver whose rise and
fall delays differ by at most 91 µs, is decoded without error, and the close-out queues a frame with the length and
the data that were sent. -/
def Obligations.ReceiverHearsWhatTheTransmitterSends : Prop :=
  ∀ (s : State) (tx t : Tx) (k : FrameKind) (length : Nat) (data : Word) (start : Word),
    s.rx.state = .idle ∨ s.rx.state = .interFrameIdle → k ≠ .corrupt → length ≤ 32 → data.toNat < 2 ^ length →
    (s.params.rxRiseUs : Int) - s.params.rxFallUs ≤ 91 → (s.params.rxFallUs : Int) - s.params.rxRiseUs ≤ 91 →
    s.lineActive = false → s.q.items.length < s.params.queueDepth →
    tx.encodeFrame k length data = some t →
    (hearTable start t s).q = s.q ∧
    ∃ (v : State) (f : RxFrame), exec .rxStopbitMatch (hearTable start t s) = .next v ∧
      v.q.items = s.q.items ++ [f] ∧ f.status = .ok ∧ f.length = length ∧ f.data = data ∧
      f.loopback = s.tx.armed ∧ f.timestamp = s.nowMs

/-! ## Scheduler (43_scheduler.md) -/

/-- `rx_schedule_transmission` in each state of the receiver (R191, R192, R193, R116): on a quiet bus an elapsed
settling time starts the table at once, or 100 µs later if a table still runs; one that has not elapsed is waited
for; in any other state the close-out will serve it. -/
def Obligations.SchedulingFollowsTheReceiver : Prop :=
  ∀ s : State,
    let ref := if s.tx.kind = .backward then s.rx.lastFullFrame else s.rx.lastEdge
    let stop := ref + BitVec.ofNat 32 (settleTime s.tx.kind s.tx.prio)
    let d := (stop - s.nowUs).toInt
    (s.settleEnd = stop ∧ (s.settled = true ↔ d ≤ 0 ∨ 19500 < d)) ∧
    let started : Tx := { s.tx with
      running := true, t0 := s.nowUs, index := 0, toggleOnMatch := decide (1 < s.tx.n.val), line := true }
    (s.rx.state = .idle → s.tx.running = false →
      rxScheduleTransmission s = { s with tx := started, rx := { s.rx with pendingTx := false } }) ∧
    (s.rx.state = .idle → s.tx.running = true → rxScheduleTransmission s = { s with
      rx := { s.rx with pendingTx := true }, periodCmp := ⟨true, s.nowUs + 100⟩ }) ∧
    (s.rx.state = .interFrameIdle → d ≤ 0 ∨ 19500 < d → s.tx.running = false →
      rxScheduleTransmission s = { s with
        tx := started, rx := { s.rx with pendingTx := false, endIfi := stop } }) ∧
    (s.rx.state = .interFrameIdle → d ≤ 0 ∨ 19500 < d → s.tx.running = true →
      rxScheduleTransmission s = { s with
        rx := { s.rx with pendingTx := true, endIfi := stop }, periodCmp := ⟨true, s.nowUs + 100⟩ }) ∧
    (s.rx.state = .interFrameIdle → 0 < d → d ≤ 19500 →
      rxScheduleTransmission s = { s with
        rx := { s.rx with pendingTx := true, endIfi := stop }
        periodCmp := ⟨true, if d < 100 then s.nowUs + 100 else stop⟩ }) ∧
    (s.rx.state ≠ .idle → s.rx.state ≠ .interFrameIdle →
      rxScheduleTransmission s = { s with rx := { s.rx with pendingTx := true } })

/-- The settling times (40_timing_tables.md R94, 10_state.md R11). -/
def Obligations.SettlingTimesAreTheTable : Prop :=
  settleTime .backward 0 = 5500 ∧ settleTime .backToBack 0 = 2450 ∧ settleTime .corrupt 0 = 13500 ∧
  settleTime .sequence 0 = 13500 ∧ ∀ k : FrameKind, k = .forward ∨ k = .query →
    settleTime k 1 = 13500 ∧ settleTime k 2 = 14900 ∧ settleTime k 3 = 16300 ∧ settleTime k 4 = 17900 ∧
    settleTime k 5 = 19500

/-- `schedule_settling_timeout` (R190, R197): every close-out leaves the receiver in `InterFrameIdle`; with nothing to
send the window runs to 19500 µs after the last edge; a waiting transmission is scheduled; else an outstanding
repeat is counted down and scheduled. -/
def Obligations.CloseOutOpensTheSettlingWindow : Prop :=
  ∀ s : State,
    let w := s.rx.lastEdge + 19500#32
    let opened := { s with
      rx := { s.rx with state := .interFrameIdle, endIfi := w }
      periodCmp := ⟨true, if (w - s.nowUs).toInt < 100 then s.nowUs + 100 else w⟩ }
    (scheduleSettlingTimeout s).rx.state = .interFrameIdle ∧
    (s.rx.pendingTx = true → scheduleSettlingTimeout s = rxScheduleTransmission opened) ∧
    (s.rx.pendingTx = false → s.tx.armed = true → s.tx.rep ≠ 0 → scheduleSettlingTimeout s =
      rxScheduleTransmission { opened with tx := { s.tx with rep := s.tx.rep - 1 } }) ∧
    (s.rx.pendingTx = false → s.tx.armed = false ∨ s.tx.rep = 0 → scheduleSettlingTimeout s = opened)

/-- `RX_PERIOD_MATCH` (R195, R116). -/
def Obligations.PeriodMatchFollowsItsRule : Prop :=
  ∀ s : State,
    let quiet := s.rx.state = .idle ∨ s.rx.state = .interFrameIdle
    (quiet → s.rx.pendingTx = true → s.tx.running = false → exec .rxPeriodMatch s = .next { s with
      periodCmp := { s.periodCmp with armed := false }
      rx := { s.rx with state := .idle, pendingTx := false }
      tx := { s.tx with
        running := true, t0 := s.nowUs, index := 0, toggleOnMatch := decide (1 < s.tx.n.val), line := true } }) ∧
    (quiet → s.rx.pendingTx = true → s.tx.running = true → exec .rxPeriodMatch s = .next { s with
      periodCmp := ⟨true, s.nowUs + 100⟩ }) ∧
    (s.rx.state = .interFrameIdle → s.rx.pendingTx = false → exec .rxPeriodMatch s = .next { s with
      periodCmp := { s.periodCmp with armed := false }, rx := { s.rx with state := .idle } }) ∧
    (¬quiet ∨ (s.rx.state = .idle ∧ s.rx.pendingTx = false) → exec .rxPeriodMatch s = .next { s with
      periodCmp := { s.periodCmp with armed := false } })

/-- `clamp` (R192), and every value an operation loads into the period compare lies at least 100 µs ahead: never at
`now_us` and never behind it. -/
def Obligations.PeriodCompareIsNeverArmedTooSoon : Prop :=
  (∀ now c : Word, clamp now c = if (c - now).toInt < 100 then now + 100 else c) ∧
  ∀ (i : Instr) (s t : State), exec i s = .next t → t.periodCmp.armed = true → t.periodCmp ≠ s.periodCmp →
    100 ≤ (t.periodCmp.count - s.nowUs).toInt

/-- When an operation starts a transmission the bus was quiet and, but for the period match that was armed for this
start, the settling time of its type had elapsed (R191, R194, R198). The operation is the period match, for a
transmission that waits, in `Idle` or `InterFrameIdle` (that its settling time is over in the window is stated of the
step, EveryStepKeepsTheWaitsTimed); or a `SEND` or `SEQ_EXECUTE` in `Idle`, or in a settling window
whose remaining wait is none that a settling time can give; or the stop match that opens such a window on an idle line. -/
def Obligations.TransmissionStartsOnlyWhenSettled : Prop :=
  ∀ (i : Instr) (s t : State), exec i s = .next t → s.tx.running = false → t.tx.running = true →
    t.tx.index = 0 ∧ t.tx.t0 = s.nowUs ∧ t.tx.line = true ∧ t.rx.pendingTx = false ∧
    ((i = .rxPeriodMatch ∧ s.rx.pendingTx = true ∧ (s.rx.state = .idle ∨ s.rx.state = .interFrameIdle)) ∨
      ((i = .seqExecute ∨ ∃ kind prio length rep data, i = .send kind prio length rep data) ∧
        (s.rx.state = .idle ∨ (s.rx.state = .interFrameIdle ∧ t.settled = true))) ∨
      (i = .rxStopbitMatch ∧ s.lineActive = false ∧ t.rx.state = .interFrameIdle ∧ t.settled = true))

/-- A start that an operation defers to the period compare is never set before the end of the settling time
(R191, R192, R194). -/
def Obligations.DeferredStartWaitsForTheSettlingTime : Prop :=
  ∀ s : State, s.rx.state = .interFrameIdle → s.settled = false →
    ∃ c, rxScheduleTransmission s = { s with
        rx := { s.rx with pendingTx := true, endIfi := s.settleEnd }, periodCmp := ⟨true, c⟩ } ∧
      0 ≤ (c - s.settleEnd).toInt ∧ (c - s.nowUs).toInt ≤ 19500 ∧ 100 ≤ (c - s.nowUs).toInt

/-! ## Frame queue (44_frame_queue.md) -/

/-- `enqueue` (R211): appended at the tail, or dropped with the overflow flag set; and `report(S)` is the `enqueue` of
a status frame stamped `now_ms` (R212), for every status. -/
def Obligations.EnqueueAppendsOrDrops : Prop :=
  ∀ (f : RxFrame) (s : State),
    (s.q.items.length < s.params.queueDepth → enqueue f s = { s with q := ⟨s.q.items ++ [f], s.q.overflow⟩ }) ∧
    (s.params.queueDepth ≤ s.q.items.length → enqueue f s = { s with q := ⟨s.q.items, true⟩ }) ∧
    ∀ st : Status, report st s = enqueue ⟨false, false, st, 0, 0, s.nowMs⟩ s

/-- `TRY_RECEIVE` (R214, R215): the head leaves, the marker joins when frames were dropped, an empty queue changes
nothing; that what it returns is appended to a list of replies is the model's choice (log 14). -/
def Obligations.TryReceivePopsTheOldestFrame : Prop :=
  ∀ s : State,
    (s.q.items = [] → exec .tryReceive s = .next { s with replies := s.replies ++ [.received false 0] }) ∧
    (∀ f rest, s.q.items = f :: rest → s.q.overflow = false → exec .tryReceive s = .next { s with
      q := ⟨rest, false⟩, replies := s.replies ++ [.received true (frameWord f)] }) ∧
    (∀ f rest, s.q.items = f :: rest → s.q.overflow = true → exec .tryReceive s = .next { s with
      q := ⟨rest ++ [⟨false, false, .errorQueueFull, 0, 0, s.nowMs⟩], false⟩
      replies := s.replies ++ [.received true (frameWord f)] })

/-- A queued frame is immutable and frames leave in their order (R210): every operation but `TRY_RECEIVE` and `RESET`
only appends, at most one frame, and `TRY_RECEIVE` removes at most the head. -/
def Obligations.QueuedFramesAreImmutable : Prop :=
  ∀ (i : Instr) (s t : State), exec i s = .next t →
    (i ≠ .tryReceive → i ≠ .reset →
      t.q.items = s.q.items ∨ ∃ f, t.q.items = s.q.items ++ [f]) ∧
    (i = .tryReceive → s.q.items.tail <+: t.q.items)

/-! ## Reset (70_reset_and_hazards.md) -/

/-- `RESET` (R270): the reset table; with the line still active once `tx_line` is idle, `Failure` and one
`SystemFailure` frame (`QUEUE_DEPTH` is positive, R5); then the rest of the instant is discarded (R241 step 1) and the
level it left is no edge. Three clauses are the model's choice, not R270's: RESET keeps the replies (log 14), what is
discarded are the presented events and the commands while later timeline entries stay (log 22, DEDUCED), and the phase
of the instant is `host` afterwards (log 10). -/
def Obligations.ResetLeavesTheResetTable : Prop :=
  ∀ s : State,
    let idle : State := { s with
      tx := { count := s.tx.count, n := 0, countNow := 0, levelHigh := true, index := 0, armed := false,
              running := false, building := false, kind := .none, prio := 0, rep := 0, toggleOnMatch := false,
              line := false, t0 := 0 }
      rx := { state := .idle, frame := ⟨false, false, .ok, 0, 0, 0⟩, lastBit := true, lastEdge := s.nowUs,
              lastFullFrame := s.nowUs, prev := ⟨false, 0, 0, 0⟩, pendingTx := false, endIfi := 0 }
      stopCmp := ⟨false, 0⟩, periodCmp := ⟨false, 0⟩, queryCmp := ⟨false, 0⟩, q := ⟨[], false⟩ }
    (s.env.ext = false → exec .reset s = .next idle) ∧
    (s.env.ext = true → 0 < s.params.queueDepth → exec .reset s = .next { idle with
      rx := { idle.rx with state := .failure }
      q := ⟨[⟨false, false, .systemFailure, 0, 0, s.nowMs⟩], false⟩ }) ∧
    ∀ t, exec .reset s = .next t → runOp .reset s = .next { t with
      env := { t.env with seen := t.lineActive, phase := .host, presented := [], cmds := [] } }

/-! ## Frames: what the operations leave unchanged -/

/-- What the seven commands leave unchanged: the receiver but its waiting flag and the diagnostic count, which only
`SEND` and `SEQ_EXECUTE` write with the period compare; the stop and query compares (R167: no command changes
`rx.state`); the transmitter for the three that only ask; the replies but for the two that return a value (the list of
replies is the model's choice, log 14). -/
def Obligations.CommandsLeaveTheReceiverAlone : Prop :=
  ∀ (i : Instr) (s t : State), isCommand i → exec i s = .next t →
    t.rx = { s.rx with pendingTx := t.rx.pendingTx, endIfi := t.rx.endIfi } ∧
    t.stopCmp = s.stopCmp ∧ t.queryCmp = s.queryCmp ∧ t.params = s.params ∧ t.env = s.env ∧
    (i ≠ .tryReceive → i ≠ .isTxIdle → t.replies = s.replies) ∧
    (i = .reqStatus ∨ i = .tryReceive ∨ i = .isTxIdle →
      t.tx = s.tx ∧ t.rx = s.rx ∧ t.periodCmp = s.periodCmp) ∧
    (i = .seqStart ∨ (∃ p, i = .seqNext p) → t.rx = s.rx ∧ t.periodCmp = s.periodCmp ∧
      t.tx = { s.tx with
        count := t.tx.count, n := t.tx.n, countNow := t.tx.countNow, levelHigh := t.tx.levelHigh,
        building := t.tx.building } ∧
      ∀ j : Fin 67, j.val ≠ s.tx.n.val → t.tx.entry j = s.tx.entry j) ∧
    (i = .seqExecute → t.tx.count = s.tx.count ∧ t.tx.n = s.tx.n ∧ t.tx.countNow = s.tx.countNow ∧
      t.tx.levelHigh = s.tx.levelHigh)

/-- What `RX_EDGE` leaves unchanged: all of the transmitter, the previous frame, what waits, the counts of the period
and query compares, the replies (R140 "State written"). -/
def Obligations.EdgesLeaveTheTransmitterAlone : Prop :=
  ∀ (c : Word) (level : Level) (s t : State), exec (.rxEdge c level) s = .next t →
    t.tx = s.tx ∧ t.params = s.params ∧ t.env = s.env ∧ t.replies = s.replies ∧
    t.rx = { s.rx with
      state := t.rx.state, frame := t.rx.frame, lastBit := t.rx.lastBit, lastEdge := t.rx.lastEdge } ∧
    t.periodCmp.count = s.periodCmp.count ∧ t.queryCmp.count = s.queryCmp.count ∧
    (s.rx.state ≠ .idle → s.rx.state ≠ .interFrameIdle → t.periodCmp = s.periodCmp ∧ t.queryCmp = s.queryCmp)

/-- What the three receive matches leave unchanged (R160, R166, R195 "State written"; 20_memory.md R47): the pulse
table, the armed type, the query compare but for its own match, the last edge and the last bit, the replies; and the
rest of the transmitter unless they start a transmission or count a repeat down. -/
def Obligations.ReceiveMatchesLeaveTheTableAlone : Prop :=
  ∀ (i : Instr) (s t : State), i = .rxStopbitMatch ∨ i = .rxPeriodMatch ∨ i = .rxQueryMatch → exec i s = .next t →
    t.params = s.params ∧ t.env = s.env ∧ t.replies = s.replies ∧
    t.rx.lastEdge = s.rx.lastEdge ∧ t.rx.lastBit = s.rx.lastBit ∧
    t.tx = { s.tx with
      rep := t.tx.rep, running := t.tx.running, t0 := t.tx.t0, index := t.tx.index,
      toggleOnMatch := t.tx.toggleOnMatch, line := t.tx.line } ∧
    (t.tx.running = s.tx.running → t.tx = { s.tx with rep := t.tx.rep }) ∧
    (t.tx.rep = s.tx.rep ∨ (i = .rxStopbitMatch ∧ t.tx.rep = s.tx.rep - 1 ∧ s.tx.rep ≠ 0)) ∧
    (i ≠ .rxQueryMatch → t.queryCmp = s.queryCmp) ∧ (i ≠ .rxStopbitMatch → t.stopCmp = s.stopCmp) ∧
    (i ≠ .rxStopbitMatch → t.rx.frame = s.rx.frame ∧ t.rx.prev = s.rx.prev ∧
      t.rx.lastFullFrame = s.rx.lastFullFrame ∧ t.rx.endIfi = s.rx.endIfi) ∧
    (i = .rxQueryMatch → t.tx = s.tx ∧ t.rx = s.rx ∧ t.periodCmp = s.periodCmp) ∧
    (i = .rxPeriodMatch → t.q = s.q)

/-- What `TX_MATCH` leaves unchanged (20_memory.md R47: "touches only transmitter state and the query compare"): the
whole receiver, its two other compares, the queue; of the transmitter all but five fields, and it never sets
`tx.armed`. -/
def Obligations.TxMatchTouchesOnlyItsOwnState : Prop :=
  ∀ s t : State, s.Inv → exec .txMatch s = .next t →
    t = { s with
      tx := { s.tx with
        index := t.tx.index, toggleOnMatch := t.tx.toggleOnMatch, running := t.tx.running, armed := t.tx.armed,
        line := t.tx.line }
      queryCmp := t.queryCmp } ∧
    (t.tx.armed = true → s.tx.armed = true) ∧ (s.tx.kind ≠ .query → t.queryCmp = s.queryCmp)

/-! ## Invariants (10_state.md R38) -/

/-- Every step keeps the invariants of R38, and with them R17's running sum, R38 item 8's and R213's shape of queued
frames, and R11's legal type of an armed table. -/
def Obligations.EveryStepKeepsTheInvariants : Prop :=
  ∀ s t : State, s.Inv → step s = .next t → t.Inv

/-- The receiver's compares stay where their matches mean something: every step keeps the stop compare armed only in an
open cycle or in `Low`, and the period compare only in `Idle` or `InterFrameIdle`; so in such a state no step takes a
stop match in `Idle`, `InterFrameIdle` or `Failure`, nor a period match off a quiet bus (42_receiver.md R160 corner
cases, R164; 43_scheduler.md R195 "cannot occur"). -/
def Obligations.EveryStepKeepsTheComparesPlaced : Prop :=
  ∀ s : State, s.Placed →
    (∀ t, step s = .next t → t.Placed) ∧
    ∀ (i : Instr) (u : State), fetch (presentArrived s) = .op i u →
      (i = .rxStopbitMatch → s.rx.state ≠ .idle ∧ s.rx.state ≠ .interFrameIdle ∧ s.rx.state ≠ .failure) ∧
      (i = .rxPeriodMatch → s.rx.state = .idle ∨ s.rx.state = .interFrameIdle)

/-- The state after reset meets the invariants, is timed and placed, and nothing is presented in it (its inputs and the
contents of the table are the model's choice, log 1, log 2). -/
def Obligations.ResetMeetsTheInvariants : Prop :=
  State.reset.Inv ∧ State.reset.Timed ∧ State.reset.WaitsOut ∧ State.reset.Placed ∧ State.reset.matchesInternal
end

