-- ==== Sys2Proof/Laws/Flags.lean ====
section
/-! SUPPORT. What the comparisons of Machine/Flags.lean and the scheduler's tests say, as propositions, so that
provers need not unfold them. -/

namespace Sys2Proof.Machine

open Sys2Proof

/-- `in_window` is membership, both ends included (00_scope.md R6). -/
theorem inWindow_iff (e : Int) (w : Int × Int) : inWindow e w = true ↔ w.1 ≤ e ∧ e ≤ w.2 := by
  unfold inWindow
  rw [Bool.and_eq_true, decide_eq_true_iff, decide_eq_true_iff]

theorem inWindow_wBegin (e : Int) : inWindow e wBegin = true ↔ 325 ≤ e ∧ e ≤ 508 := inWindow_iff e wBegin

theorem inWindow_wHalf (e : Int) : inWindow e wHalf = true ↔ 325 ≤ e ∧ e ≤ 508 := inWindow_iff e wHalf

theorem inWindow_wFull (e : Int) : inWindow e wFull = true ↔ 658 ≤ e ∧ e ≤ 1008 := inWindow_iff e wFull

/-- The corrected elapsed time, spelled out (42_receiver.md R144). -/
theorem correctedElapsed_eq (s : State) (tCap : Word) (level : Level) :
    s.correctedElapsed tCap level = spelledElapsed s tCap level := by
  unfold State.correctedElapsed spelledElapsed Params.delta
  cases level
  · simp; ring
  · simp

/-- The scheduler's test on the remaining wait (43_scheduler.md R191). -/
theorem settled_iff (s : State) :
    s.settled = true ↔ (s.settleEnd - s.nowUs).toInt ≤ 0 ∨ 19500 < (s.settleEnd - s.nowUs).toInt := by
  unfold State.settled
  rw [Bool.or_eq_true, decide_eq_true_iff, decide_eq_true_iff]
  rfl

/-- `clamp` (43_scheduler.md R192). -/
theorem clamp_eq (nowUs c : Word) : clamp nowUs c = if (c - nowUs).toInt < 100 then nowUs + 100 else c := rfl

/-- The reference edge (43_scheduler.md R193). -/
theorem refEdge_eq (s : State) :
    s.refEdge = if s.tx.kind = .backward then s.rx.lastFullFrame else s.rx.lastEdge := by
  unfold State.refEdge
  cases s.tx.kind <;> rfl

/-- A clamped count lies at least 100 µs ahead (43_scheduler.md R192). -/
theorem clamp_ahead (nowUs c : Word) : 100 ≤ (clamp nowUs c - nowUs).toInt := by
  rw [clamp_eq]
  split
  · rw [show nowUs + 100 - nowUs = 100#32 by bv_omega]; decide
  · omega

end Sys2Proof.Machine
end

