-- ==== Sys2Proof/Laws/State.lean ====
section
/-! SUPPORT. The small lemmas of State: what each named update leaves in each field, true by rfl. -/

namespace Sys2Proof.Machine

open Sys2Proof

/-! ### acceptEdge -/

@[simp] theorem acceptEdge_params (c : Word) (s : State) : (acceptEdge c s).params = s.params := rfl
@[simp] theorem acceptEdge_tx (c : Word) (s : State) : (acceptEdge c s).tx = s.tx := rfl
@[simp] theorem acceptEdge_rx_state (c : Word) (s : State) : (acceptEdge c s).rx.state = s.rx.state := rfl
@[simp] theorem acceptEdge_rx_frame (c : Word) (s : State) : (acceptEdge c s).rx.frame = s.rx.frame := rfl
@[simp] theorem acceptEdge_rx_lastBit (c : Word) (s : State) : (acceptEdge c s).rx.lastBit = s.rx.lastBit := rfl
@[simp] theorem acceptEdge_rx_lastEdge (c : Word) (s : State) : (acceptEdge c s).rx.lastEdge = c := rfl
@[simp] theorem acceptEdge_rx_lastFullFrame (c : Word) (s : State) : (acceptEdge c s).rx.lastFullFrame = s.rx.lastFullFrame := rfl
@[simp] theorem acceptEdge_rx_prev (c : Word) (s : State) : (acceptEdge c s).rx.prev = s.rx.prev := rfl
@[simp] theorem acceptEdge_rx_pendingTx (c : Word) (s : State) : (acceptEdge c s).rx.pendingTx = s.rx.pendingTx := rfl
@[simp] theorem acceptEdge_rx_endIfi (c : Word) (s : State) : (acceptEdge c s).rx.endIfi = s.rx.endIfi := rfl
@[simp] theorem acceptEdge_stopCmp (c : Word) (s : State) : (acceptEdge c s).stopCmp = ⟨true, c + tStopRx⟩ := rfl
@[simp] theorem acceptEdge_periodCmp (c : Word) (s : State) : (acceptEdge c s).periodCmp = s.periodCmp := rfl
@[simp] theorem acceptEdge_queryCmp (c : Word) (s : State) : (acceptEdge c s).queryCmp = s.queryCmp := rfl
@[simp] theorem acceptEdge_q (c : Word) (s : State) : (acceptEdge c s).q = s.q := rfl
@[simp] theorem acceptEdge_replies (c : Word) (s : State) : (acceptEdge c s).replies = s.replies := rfl
@[simp] theorem acceptEdge_env (c : Word) (s : State) : (acceptEdge c s).env = s.env := rfl
@[simp] theorem acceptEdge_nowUs (c : Word) (s : State) : (acceptEdge c s).nowUs = s.nowUs := rfl
@[simp] theorem acceptEdge_nowMs (c : Word) (s : State) : (acceptEdge c s).nowMs = s.nowMs := rfl

/-! ### startEdge -/

@[simp] theorem startEdge_params (s : State) : (startEdge s).params = s.params := rfl
@[simp] theorem startEdge_tx (s : State) : (startEdge s).tx = s.tx := rfl
@[simp] theorem startEdge_rx_state (s : State) : (startEdge s).rx.state = .startBitStart := rfl
@[simp] theorem startEdge_rx_frame (s : State) : (startEdge s).rx.frame = ⟨s.tx.armed, false, .ok, 0, 0, s.nowMs⟩ := rfl
@[simp] theorem startEdge_rx_lastBit (s : State) : (startEdge s).rx.lastBit = true := rfl
@[simp] theorem startEdge_rx_lastEdge (s : State) : (startEdge s).rx.lastEdge = s.rx.lastEdge := rfl
@[simp] theorem startEdge_rx_lastFullFrame (s : State) : (startEdge s).rx.lastFullFrame = s.rx.lastFullFrame := rfl
@[simp] theorem startEdge_rx_prev (s : State) : (startEdge s).rx.prev = s.rx.prev := rfl
@[simp] theorem startEdge_rx_pendingTx (s : State) : (startEdge s).rx.pendingTx = s.rx.pendingTx := rfl
@[simp] theorem startEdge_rx_endIfi (s : State) : (startEdge s).rx.endIfi = s.rx.endIfi := rfl
@[simp] theorem startEdge_stopCmp (s : State) : (startEdge s).stopCmp = s.stopCmp := rfl
@[simp] theorem startEdge_periodCmp (s : State) : (startEdge s).periodCmp = ⟨false, s.periodCmp.count⟩ := rfl
@[simp] theorem startEdge_queryCmp (s : State) : (startEdge s).queryCmp = ⟨false, s.queryCmp.count⟩ := rfl
@[simp] theorem startEdge_q (s : State) : (startEdge s).q = s.q := rfl
@[simp] theorem startEdge_replies (s : State) : (startEdge s).replies = s.replies := rfl
@[simp] theorem startEdge_env (s : State) : (startEdge s).env = s.env := rfl
@[simp] theorem startEdge_nowUs (s : State) : (startEdge s).nowUs = s.nowUs := rfl
@[simp] theorem startEdge_nowMs (s : State) : (startEdge s).nowMs = s.nowMs := rfl

/-! ### enterLow -/

@[simp] theorem enterLow_params (s : State) : (enterLow s).params = s.params := rfl
@[simp] theorem enterLow_tx (s : State) : (enterLow s).tx = s.tx := rfl
@[simp] theorem enterLow_rx_state (s : State) : (enterLow s).rx.state = .low := rfl
@[simp] theorem enterLow_rx_frame (s : State) : (enterLow s).rx.frame = RxFrame.empty := rfl
@[simp] theorem enterLow_rx_lastBit (s : State) : (enterLow s).rx.lastBit = s.rx.lastBit := rfl
@[simp] theorem enterLow_rx_lastEdge (s : State) : (enterLow s).rx.lastEdge = s.rx.lastEdge := rfl
@[simp] theorem enterLow_rx_lastFullFrame (s : State) : (enterLow s).rx.lastFullFrame = s.rx.lastFullFrame := rfl
@[simp] theorem enterLow_rx_prev (s : State) : (enterLow s).rx.prev = s.rx.prev := rfl
@[simp] theorem enterLow_rx_pendingTx (s : State) : (enterLow s).rx.pendingTx = s.rx.pendingTx := rfl
@[simp] theorem enterLow_rx_endIfi (s : State) : (enterLow s).rx.endIfi = s.rx.endIfi := rfl
@[simp] theorem enterLow_stopCmp (s : State) : (enterLow s).stopCmp = ⟨true, s.rx.lastEdge + tFailure⟩ := rfl
@[simp] theorem enterLow_periodCmp (s : State) : (enterLow s).periodCmp = s.periodCmp := rfl
@[simp] theorem enterLow_queryCmp (s : State) : (enterLow s).queryCmp = s.queryCmp := rfl
@[simp] theorem enterLow_q (s : State) : (enterLow s).q = s.q := rfl
@[simp] theorem enterLow_replies (s : State) : (enterLow s).replies = s.replies := rfl
@[simp] theorem enterLow_env (s : State) : (enterLow s).env = s.env := rfl
@[simp] theorem enterLow_nowUs (s : State) : (enterLow s).nowUs = s.nowUs := rfl
@[simp] theorem enterLow_nowMs (s : State) : (enterLow s).nowMs = s.nowMs := rfl

/-! ### openWindow -/

@[simp] theorem openWindow_params (s : State) : (openWindow s).params = s.params := rfl
@[simp] theorem openWindow_tx (s : State) : (openWindow s).tx = s.tx := rfl
@[simp] theorem openWindow_rx_state (s : State) : (openWindow s).rx.state = .interFrameIdle := rfl
@[simp] theorem openWindow_rx_frame (s : State) : (openWindow s).rx.frame = s.rx.frame := rfl
@[simp] theorem openWindow_rx_lastBit (s : State) : (openWindow s).rx.lastBit = s.rx.lastBit := rfl
@[simp] theorem openWindow_rx_lastEdge (s : State) : (openWindow s).rx.lastEdge = s.rx.lastEdge := rfl
@[simp] theorem openWindow_rx_lastFullFrame (s : State) : (openWindow s).rx.lastFullFrame = s.rx.lastFullFrame := rfl
@[simp] theorem openWindow_rx_prev (s : State) : (openWindow s).rx.prev = s.rx.prev := rfl
@[simp] theorem openWindow_rx_pendingTx (s : State) : (openWindow s).rx.pendingTx = s.rx.pendingTx := rfl
@[simp] theorem openWindow_rx_endIfi (s : State) : (openWindow s).rx.endIfi = s.rx.lastEdge + BitVec.ofNat 32 settleMax := rfl
@[simp] theorem openWindow_stopCmp (s : State) : (openWindow s).stopCmp = s.stopCmp := rfl
@[simp] theorem openWindow_periodCmp (s : State) : (openWindow s).periodCmp = ⟨true, clamp s.nowUs (s.rx.lastEdge + BitVec.ofNat 32 settleMax)⟩ := rfl
@[simp] theorem openWindow_queryCmp (s : State) : (openWindow s).queryCmp = s.queryCmp := rfl
@[simp] theorem openWindow_q (s : State) : (openWindow s).q = s.q := rfl
@[simp] theorem openWindow_replies (s : State) : (openWindow s).replies = s.replies := rfl
@[simp] theorem openWindow_env (s : State) : (openWindow s).env = s.env := rfl
@[simp] theorem openWindow_nowUs (s : State) : (openWindow s).nowUs = s.nowUs := rfl
@[simp] theorem openWindow_nowMs (s : State) : (openWindow s).nowMs = s.nowMs := rfl

/-! ### armRetry -/

@[simp] theorem armRetry_params (s : State) : (armRetry s).params = s.params := rfl
@[simp] theorem armRetry_tx (s : State) : (armRetry s).tx = s.tx := rfl
@[simp] theorem armRetry_rx (s : State) : (armRetry s).rx = s.rx := rfl
@[simp] theorem armRetry_stopCmp (s : State) : (armRetry s).stopCmp = s.stopCmp := rfl
@[simp] theorem armRetry_periodCmp (s : State) : (armRetry s).periodCmp = ⟨true, s.nowUs + BitVec.ofNat 32 tMinSchedule⟩ := rfl
@[simp] theorem armRetry_queryCmp (s : State) : (armRetry s).queryCmp = s.queryCmp := rfl
@[simp] theorem armRetry_q (s : State) : (armRetry s).q = s.q := rfl
@[simp] theorem armRetry_replies (s : State) : (armRetry s).replies = s.replies := rfl
@[simp] theorem armRetry_env (s : State) : (armRetry s).env = s.env := rfl
@[simp] theorem armRetry_nowUs (s : State) : (armRetry s).nowUs = s.nowUs := rfl
@[simp] theorem armRetry_nowMs (s : State) : (armRetry s).nowMs = s.nowMs := rfl

/-! ### txStart -/

@[simp] theorem txStart_params (s : State) : (txStart s).params = s.params := rfl
@[simp] theorem txStart_tx_count (s : State) : (txStart s).tx.count = s.tx.count := rfl
@[simp] theorem txStart_tx_n (s : State) : (txStart s).tx.n = s.tx.n := rfl
@[simp] theorem txStart_tx_countNow (s : State) : (txStart s).tx.countNow = s.tx.countNow := rfl
@[simp] theorem txStart_tx_levelHigh (s : State) : (txStart s).tx.levelHigh = s.tx.levelHigh := rfl
@[simp] theorem txStart_tx_index (s : State) : (txStart s).tx.index = 0 := rfl
@[simp] theorem txStart_tx_armed (s : State) : (txStart s).tx.armed = s.tx.armed := rfl
@[simp] theorem txStart_tx_running (s : State) : (txStart s).tx.running = true := rfl
@[simp] theorem txStart_tx_building (s : State) : (txStart s).tx.building = s.tx.building := rfl
@[simp] theorem txStart_tx_kind (s : State) : (txStart s).tx.kind = s.tx.kind := rfl
@[simp] theorem txStart_tx_prio (s : State) : (txStart s).tx.prio = s.tx.prio := rfl
@[simp] theorem txStart_tx_rep (s : State) : (txStart s).tx.rep = s.tx.rep := rfl
@[simp] theorem txStart_tx_toggleOnMatch (s : State) : (txStart s).tx.toggleOnMatch = decide (1 < s.tx.n.val) := rfl
@[simp] theorem txStart_tx_line (s : State) : (txStart s).tx.line = true := rfl
@[simp] theorem txStart_tx_t0 (s : State) : (txStart s).tx.t0 = s.nowUs := rfl
@[simp] theorem txStart_rx_state (s : State) : (txStart s).rx.state = s.rx.state := rfl
@[simp] theorem txStart_rx_frame (s : State) : (txStart s).rx.frame = s.rx.frame := rfl
@[simp] theorem txStart_rx_lastBit (s : State) : (txStart s).rx.lastBit = s.rx.lastBit := rfl
@[simp] theorem txStart_rx_lastEdge (s : State) : (txStart s).rx.lastEdge = s.rx.lastEdge := rfl
@[simp] theorem txStart_rx_lastFullFrame (s : State) : (txStart s).rx.lastFullFrame = s.rx.lastFullFrame := rfl
@[simp] theorem txStart_rx_prev (s : State) : (txStart s).rx.prev = s.rx.prev := rfl
@[simp] theorem txStart_rx_pendingTx (s : State) : (txStart s).rx.pendingTx = false := rfl
@[simp] theorem txStart_rx_endIfi (s : State) : (txStart s).rx.endIfi = s.rx.endIfi := rfl
@[simp] theorem txStart_stopCmp (s : State) : (txStart s).stopCmp = s.stopCmp := rfl
@[simp] theorem txStart_periodCmp (s : State) : (txStart s).periodCmp = s.periodCmp := rfl
@[simp] theorem txStart_queryCmp (s : State) : (txStart s).queryCmp = s.queryCmp := rfl
@[simp] theorem txStart_q (s : State) : (txStart s).q = s.q := rfl
@[simp] theorem txStart_replies (s : State) : (txStart s).replies = s.replies := rfl
@[simp] theorem txStart_env (s : State) : (txStart s).env = s.env := rfl
@[simp] theorem txStart_nowUs (s : State) : (txStart s).nowUs = s.nowUs := rfl
@[simp] theorem txStart_nowMs (s : State) : (txStart s).nowMs = s.nowMs := rfl

/-! ### isTxIdle -/

@[simp] theorem isTxIdle_params (s : State) : (isTxIdle s).params = s.params := rfl
@[simp] theorem isTxIdle_tx (s : State) : (isTxIdle s).tx = s.tx := rfl
@[simp] theorem isTxIdle_rx (s : State) : (isTxIdle s).rx = s.rx := rfl
@[simp] theorem isTxIdle_stopCmp (s : State) : (isTxIdle s).stopCmp = s.stopCmp := rfl
@[simp] theorem isTxIdle_periodCmp (s : State) : (isTxIdle s).periodCmp = s.periodCmp := rfl
@[simp] theorem isTxIdle_queryCmp (s : State) : (isTxIdle s).queryCmp = s.queryCmp := rfl
@[simp] theorem isTxIdle_q (s : State) : (isTxIdle s).q = s.q := rfl
@[simp] theorem isTxIdle_replies (s : State) : (isTxIdle s).replies = s.replies ++ [.txIdle (!s.tx.armed)] := rfl
@[simp] theorem isTxIdle_env (s : State) : (isTxIdle s).env = s.env := rfl
@[simp] theorem isTxIdle_nowUs (s : State) : (isTxIdle s).nowUs = s.nowUs := rfl
@[simp] theorem isTxIdle_nowMs (s : State) : (isTxIdle s).nowMs = s.nowMs := rfl

/-! ### resetIdle -/

@[simp] theorem resetIdle_params (s : State) : (resetIdle s).params = s.params := rfl
@[simp] theorem resetIdle_tx (s : State) : (resetIdle s).tx = s.tx.atReset := rfl
@[simp] theorem resetIdle_rx (s : State) : (resetIdle s).rx = Rx.atReset s.nowUs := rfl
@[simp] theorem resetIdle_stopCmp (s : State) : (resetIdle s).stopCmp = ⟨false, 0⟩ := rfl
@[simp] theorem resetIdle_periodCmp (s : State) : (resetIdle s).periodCmp = ⟨false, 0⟩ := rfl
@[simp] theorem resetIdle_queryCmp (s : State) : (resetIdle s).queryCmp = ⟨false, 0⟩ := rfl
@[simp] theorem resetIdle_q (s : State) : (resetIdle s).q = ⟨[], false⟩ := rfl
@[simp] theorem resetIdle_replies (s : State) : (resetIdle s).replies = s.replies := rfl
@[simp] theorem resetIdle_env (s : State) : (resetIdle s).env = s.env := rfl
@[simp] theorem resetIdle_nowUs (s : State) : (resetIdle s).nowUs = s.nowUs := rfl
@[simp] theorem resetIdle_nowMs (s : State) : (resetIdle s).nowMs = s.nowMs := rfl

/-! ### takeEvent -/

@[simp] theorem takeEvent_params (i : Instr) (s : State) : (takeEvent i s).params = s.params := rfl
@[simp] theorem takeEvent_tx (i : Instr) (s : State) : (takeEvent i s).tx = s.tx := rfl
@[simp] theorem takeEvent_rx (i : Instr) (s : State) : (takeEvent i s).rx = s.rx := rfl
@[simp] theorem takeEvent_stopCmp (i : Instr) (s : State) : (takeEvent i s).stopCmp = s.stopCmp := rfl
@[simp] theorem takeEvent_periodCmp (i : Instr) (s : State) : (takeEvent i s).periodCmp = s.periodCmp := rfl
@[simp] theorem takeEvent_queryCmp (i : Instr) (s : State) : (takeEvent i s).queryCmp = s.queryCmp := rfl
@[simp] theorem takeEvent_q (i : Instr) (s : State) : (takeEvent i s).q = s.q := rfl
@[simp] theorem takeEvent_replies (i : Instr) (s : State) : (takeEvent i s).replies = s.replies := rfl
@[simp] theorem takeEvent_env_now (i : Instr) (s : State) : (takeEvent i s).env.now = s.env.now := rfl
@[simp] theorem takeEvent_env_ext (i : Instr) (s : State) : (takeEvent i s).env.ext = s.env.ext := rfl
@[simp] theorem takeEvent_env_seen (i : Instr) (s : State) : (takeEvent i s).env.seen = seenAfter i s := rfl
@[simp] theorem takeEvent_env_phase (i : Instr) (s : State) :
    (takeEvent i s).env.phase = phaseAfter i (dropEvent (eventBit i) s.env.presented) := rfl
@[simp] theorem takeEvent_env_presented (i : Instr) (s : State) :
    (takeEvent i s).env.presented = dropEvent (eventBit i) s.env.presented := rfl
@[simp] theorem takeEvent_env_matched (i : Instr) (s : State) : (takeEvent i s).env.matched = s.env.matched := rfl
@[simp] theorem takeEvent_env_cmds (i : Instr) (s : State) : (takeEvent i s).env.cmds = s.env.cmds := rfl
@[simp] theorem takeEvent_env_timeline (i : Instr) (s : State) : (takeEvent i s).env.timeline = s.env.timeline := rfl

/-! ### takeCommand -/

@[simp] theorem takeCommand_params (r : List (BitVec 64)) (s : State) : (takeCommand r s).params = s.params := rfl
@[simp] theorem takeCommand_tx (r : List (BitVec 64)) (s : State) : (takeCommand r s).tx = s.tx := rfl
@[simp] theorem takeCommand_rx (r : List (BitVec 64)) (s : State) : (takeCommand r s).rx = s.rx := rfl
@[simp] theorem takeCommand_stopCmp (r : List (BitVec 64)) (s : State) : (takeCommand r s).stopCmp = s.stopCmp := rfl
@[simp] theorem takeCommand_periodCmp (r : List (BitVec 64)) (s : State) : (takeCommand r s).periodCmp = s.periodCmp := rfl
@[simp] theorem takeCommand_queryCmp (r : List (BitVec 64)) (s : State) : (takeCommand r s).queryCmp = s.queryCmp := rfl
@[simp] theorem takeCommand_q (r : List (BitVec 64)) (s : State) : (takeCommand r s).q = s.q := rfl
@[simp] theorem takeCommand_replies (r : List (BitVec 64)) (s : State) : (takeCommand r s).replies = s.replies := rfl
@[simp] theorem takeCommand_env_now (r : List (BitVec 64)) (s : State) : (takeCommand r s).env.now = s.env.now := rfl
@[simp] theorem takeCommand_env_ext (r : List (BitVec 64)) (s : State) : (takeCommand r s).env.ext = s.env.ext := rfl
@[simp] theorem takeCommand_env_seen (r : List (BitVec 64)) (s : State) : (takeCommand r s).env.seen = s.env.seen := rfl
@[simp] theorem takeCommand_env_phase (r : List (BitVec 64)) (s : State) : (takeCommand r s).env.phase = .host := rfl
@[simp] theorem takeCommand_env_matched (r : List (BitVec 64)) (s : State) : (takeCommand r s).env.matched = s.env.matched := rfl
@[simp] theorem takeCommand_env_presented (r : List (BitVec 64)) (s : State) : (takeCommand r s).env.presented = s.env.presented := rfl
@[simp] theorem takeCommand_env_cmds (r : List (BitVec 64)) (s : State) : (takeCommand r s).env.cmds = r := rfl
@[simp] theorem takeCommand_env_timeline (r : List (BitVec 64)) (s : State) : (takeCommand r s).env.timeline = s.env.timeline := rfl

/-! ### discardInstant -/

@[simp] theorem discardInstant_params (s : State) : (discardInstant s).params = s.params := rfl
@[simp] theorem discardInstant_tx (s : State) : (discardInstant s).tx = s.tx := rfl
@[simp] theorem discardInstant_rx (s : State) : (discardInstant s).rx = s.rx := rfl
@[simp] theorem discardInstant_stopCmp (s : State) : (discardInstant s).stopCmp = s.stopCmp := rfl
@[simp] theorem discardInstant_periodCmp (s : State) : (discardInstant s).periodCmp = s.periodCmp := rfl
@[simp] theorem discardInstant_queryCmp (s : State) : (discardInstant s).queryCmp = s.queryCmp := rfl
@[simp] theorem discardInstant_q (s : State) : (discardInstant s).q = s.q := rfl
@[simp] theorem discardInstant_replies (s : State) : (discardInstant s).replies = s.replies := rfl
@[simp] theorem discardInstant_env_now (s : State) : (discardInstant s).env.now = s.env.now := rfl
@[simp] theorem discardInstant_env_ext (s : State) : (discardInstant s).env.ext = s.env.ext := rfl
@[simp] theorem discardInstant_env_seen (s : State) : (discardInstant s).env.seen = s.lineActive := rfl
@[simp] theorem discardInstant_env_phase (s : State) : (discardInstant s).env.phase = .host := rfl
@[simp] theorem discardInstant_env_matched (s : State) : (discardInstant s).env.matched = s.env.matched := rfl
@[simp] theorem discardInstant_env_presented (s : State) : (discardInstant s).env.presented = [] := rfl
@[simp] theorem discardInstant_env_cmds (s : State) : (discardInstant s).env.cmds = [] := rfl
@[simp] theorem discardInstant_env_timeline (s : State) : (discardInstant s).env.timeline = s.env.timeline := rfl

/-! ### presentArrived -/

@[simp] theorem presentArrived_params (s : State) : (presentArrived s).params = s.params := rfl
@[simp] theorem presentArrived_tx (s : State) : (presentArrived s).tx = s.tx := rfl
@[simp] theorem presentArrived_rx (s : State) : (presentArrived s).rx = s.rx := rfl
@[simp] theorem presentArrived_stopCmp (s : State) : (presentArrived s).stopCmp = s.stopCmp := rfl
@[simp] theorem presentArrived_periodCmp (s : State) : (presentArrived s).periodCmp = s.periodCmp := rfl
@[simp] theorem presentArrived_queryCmp (s : State) : (presentArrived s).queryCmp = s.queryCmp := rfl
@[simp] theorem presentArrived_q (s : State) : (presentArrived s).q = s.q := rfl
@[simp] theorem presentArrived_replies (s : State) : (presentArrived s).replies = s.replies := rfl
@[simp] theorem presentArrived_env_now (s : State) : (presentArrived s).env.now = s.env.now := rfl
@[simp] theorem presentArrived_env_seen (s : State) : (presentArrived s).env.seen = s.env.seen := rfl
@[simp] theorem presentArrived_env_phase (s : State) : (presentArrived s).env.phase = s.env.phase := rfl
@[simp] theorem presentArrived_nowUs (s : State) : (presentArrived s).nowUs = s.nowUs := rfl
@[simp] theorem presentArrived_nowMs (s : State) : (presentArrived s).nowMs = s.nowMs := rfl
@[simp] theorem presentArrived_env_ext (s : State) : (presentArrived s).env.ext =
    (s.env.timeline.filter (fun i => decide (i.time ≤ s.env.now))).foldl (fun l i => i.bus.getD l) s.env.ext := rfl
@[simp] theorem presentArrived_env_matched (s : State) : (presentArrived s).env.matched =
    s.env.matched ||| s.dueVector &&& 0b011110 := rfl
@[simp] theorem presentArrived_env_presented (s : State) : (presentArrived s).env.presented =
    s.env.presented ++ eventsOf (s.env.timeline.filter (fun i => decide (i.time ≤ s.env.now))) := rfl
@[simp] theorem presentArrived_env_cmds (s : State) : (presentArrived s).env.cmds =
    s.env.cmds ++ (s.env.timeline.filter (fun i => decide (i.time ≤ s.env.now))).flatMap Instant.cmds := rfl
@[simp] theorem presentArrived_env_timeline (s : State) : (presentArrived s).env.timeline =
    s.env.timeline.filter (fun i => decide (s.env.now < i.time)) := rfl

/-! ### advance -/

@[simp] theorem advance_params (s : State) : (advance s).params = s.params := rfl
@[simp] theorem advance_tx (s : State) : (advance s).tx = s.tx := rfl
@[simp] theorem advance_rx (s : State) : (advance s).rx = s.rx := rfl
@[simp] theorem advance_stopCmp (s : State) : (advance s).stopCmp = s.stopCmp := rfl
@[simp] theorem advance_periodCmp (s : State) : (advance s).periodCmp = s.periodCmp := rfl
@[simp] theorem advance_queryCmp (s : State) : (advance s).queryCmp = s.queryCmp := rfl
@[simp] theorem advance_q (s : State) : (advance s).q = s.q := rfl
@[simp] theorem advance_replies (s : State) : (advance s).replies = s.replies := rfl
@[simp] theorem advance_env_ext (s : State) : (advance s).env.ext = s.env.ext := rfl
@[simp] theorem advance_env_seen (s : State) : (advance s).env.seen = s.env.seen := rfl
@[simp] theorem advance_env_presented (s : State) : (advance s).env.presented = s.env.presented := rfl
@[simp] theorem advance_env_cmds (s : State) : (advance s).env.cmds = s.env.cmds := rfl
@[simp] theorem advance_env_timeline (s : State) : (advance s).env.timeline = s.env.timeline := rfl
@[simp] theorem advance_env_now (s : State) : (advance s).env.now = s.env.now + s.nextWait := rfl
@[simp] theorem advance_env_matched (s : State) : (advance s).env.matched = 0 := rfl
@[simp] theorem advance_env_phase (s : State) : (advance s).env.phase = .reset := rfl


/-! ### later -/

@[simp] theorem later_params (s : State) (k : Nat) : (s.later k).params = s.params := rfl
@[simp] theorem later_tx (s : State) (k : Nat) : (s.later k).tx = s.tx := rfl
@[simp] theorem later_rx (s : State) (k : Nat) : (s.later k).rx = s.rx := rfl
@[simp] theorem later_stopCmp (s : State) (k : Nat) : (s.later k).stopCmp = s.stopCmp := rfl
@[simp] theorem later_periodCmp (s : State) (k : Nat) : (s.later k).periodCmp = s.periodCmp := rfl
@[simp] theorem later_queryCmp (s : State) (k : Nat) : (s.later k).queryCmp = s.queryCmp := rfl
@[simp] theorem later_q (s : State) (k : Nat) : (s.later k).q = s.q := rfl
@[simp] theorem later_replies (s : State) (k : Nat) : (s.later k).replies = s.replies := rfl
@[simp] theorem later_env_now (s : State) (k : Nat) : (s.later k).env.now = s.env.now + k := rfl
@[simp] theorem later_env_ext (s : State) (k : Nat) : (s.later k).env.ext = s.env.ext := rfl
@[simp] theorem later_env_seen (s : State) (k : Nat) : (s.later k).env.seen = s.env.seen := rfl
@[simp] theorem later_env_phase (s : State) (k : Nat) : (s.later k).env.phase = s.env.phase := rfl
@[simp] theorem later_env_matched (s : State) (k : Nat) : (s.later k).env.matched = s.env.matched := rfl
@[simp] theorem later_env_presented (s : State) (k : Nat) : (s.later k).env.presented = s.env.presented := rfl
@[simp] theorem later_env_cmds (s : State) (k : Nat) : (s.later k).env.cmds = s.env.cmds := rfl
@[simp] theorem later_env_timeline (s : State) (k : Nat) : (s.later k).env.timeline = s.env.timeline := rfl

/-! ### Tx.clearTable and Tx.atReset -/

@[simp] theorem clearTable_count (t : Tx) : t.clearTable.count = t.count := rfl
@[simp] theorem clearTable_n (t : Tx) : t.clearTable.n = 0 := rfl
@[simp] theorem clearTable_countNow (t : Tx) : t.clearTable.countNow = 0 := rfl
@[simp] theorem clearTable_levelHigh (t : Tx) : t.clearTable.levelHigh = true := rfl
@[simp] theorem clearTable_index (t : Tx) : t.clearTable.index = t.index := rfl
@[simp] theorem clearTable_armed (t : Tx) : t.clearTable.armed = t.armed := rfl
@[simp] theorem clearTable_running (t : Tx) : t.clearTable.running = t.running := rfl
@[simp] theorem clearTable_building (t : Tx) : t.clearTable.building = t.building := rfl
@[simp] theorem clearTable_kind (t : Tx) : t.clearTable.kind = t.kind := rfl
@[simp] theorem clearTable_prio (t : Tx) : t.clearTable.prio = t.prio := rfl
@[simp] theorem clearTable_rep (t : Tx) : t.clearTable.rep = t.rep := rfl
@[simp] theorem clearTable_toggleOnMatch (t : Tx) : t.clearTable.toggleOnMatch = t.toggleOnMatch := rfl
@[simp] theorem clearTable_line (t : Tx) : t.clearTable.line = t.line := rfl
@[simp] theorem clearTable_t0 (t : Tx) : t.clearTable.t0 = t.t0 := rfl

@[simp] theorem atReset_count (t : Tx) : t.atReset.count = t.count := rfl
@[simp] theorem atReset_n (t : Tx) : t.atReset.n = 0 := rfl
@[simp] theorem atReset_countNow (t : Tx) : t.atReset.countNow = 0 := rfl
@[simp] theorem atReset_levelHigh (t : Tx) : t.atReset.levelHigh = true := rfl
@[simp] theorem atReset_index (t : Tx) : t.atReset.index = 0 := rfl
@[simp] theorem atReset_armed (t : Tx) : t.atReset.armed = false := rfl
@[simp] theorem atReset_running (t : Tx) : t.atReset.running = false := rfl
@[simp] theorem atReset_building (t : Tx) : t.atReset.building = false := rfl
@[simp] theorem atReset_kind (t : Tx) : t.atReset.kind = .none := rfl
@[simp] theorem atReset_prio (t : Tx) : t.atReset.prio = 0 := rfl
@[simp] theorem atReset_rep (t : Tx) : t.atReset.rep = 0 := rfl
@[simp] theorem atReset_toggleOnMatch (t : Tx) : t.atReset.toggleOnMatch = false := rfl
@[simp] theorem atReset_line (t : Tx) : t.atReset.line = false := rfl
@[simp] theorem atReset_t0 (t : Tx) : t.atReset.t0 = 0 := rfl

@[simp] theorem clearTable_entry (t : Tx) (i : Fin 67) : t.clearTable.entry i = t.entry i := rfl
@[simp] theorem atReset_entry (t : Tx) (i : Fin 67) : t.atReset.entry i = t.entry i := rfl

end Sys2Proof.Machine
end

