-- ==== Sys2Proof/Laws/Ops.lean ====
section
/-! SUPPORT. For each shared operation, once, everything it can do: provers cite these and do not unfold it. -/

namespace Sys2Proof.Machine

open Sys2Proof

/-! ## Frame queue and statuses -/

@[simp] theorem enqueue_params (f : RxFrame) (s : State) : (enqueue f s).params = s.params := rfl
@[simp] theorem enqueue_tx (f : RxFrame) (s : State) : (enqueue f s).tx = s.tx := rfl
@[simp] theorem enqueue_rx (f : RxFrame) (s : State) : (enqueue f s).rx = s.rx := rfl
@[simp] theorem enqueue_stopCmp (f : RxFrame) (s : State) : (enqueue f s).stopCmp = s.stopCmp := rfl
@[simp] theorem enqueue_periodCmp (f : RxFrame) (s : State) : (enqueue f s).periodCmp = s.periodCmp := rfl
@[simp] theorem enqueue_queryCmp (f : RxFrame) (s : State) : (enqueue f s).queryCmp = s.queryCmp := rfl
@[simp] theorem enqueue_replies (f : RxFrame) (s : State) : (enqueue f s).replies = s.replies := rfl
@[simp] theorem enqueue_env (f : RxFrame) (s : State) : (enqueue f s).env = s.env := rfl

/-- `enqueue` appends, or drops the frame and sets the overflow flag (R211). -/
theorem enqueue_q (f : RxFrame) (s : State) :
    (enqueue f s).q = if s.q.items.length < s.params.queueDepth then ⟨s.q.items ++ [f], s.q.overflow⟩
      else ⟨s.q.items, true⟩ := rfl

/-- Every frame of the queue after an `enqueue` was there before it or is the new one. -/
theorem mem_enqueue {f g : RxFrame} {s : State} (h : g ∈ (enqueue f s).q.items) : g ∈ s.q.items ∨ g = f := by
  rw [enqueue_q] at h; split at h <;> simp_all

/-- `enqueue` keeps the queue within its depth. -/
theorem enqueue_bound {f : RxFrame} {s : State} (h : s.q.items.length ≤ s.params.queueDepth) :
    (enqueue f s).q.items.length ≤ s.params.queueDepth := by
  rw [enqueue_q]; split <;> simp_all

/-- `enqueue` changes no frame that is in the queue (R210). -/
theorem enqueue_prefix (f : RxFrame) (s : State) : s.q.items <+: (enqueue f s).q.items := by
  rw [enqueue_q]; split <;> simp

@[simp] theorem report_params (st : Status) (s : State) : (report st s).params = s.params := rfl
@[simp] theorem report_tx (st : Status) (s : State) : (report st s).tx = s.tx := rfl
@[simp] theorem report_rx (st : Status) (s : State) : (report st s).rx = s.rx := rfl
@[simp] theorem report_stopCmp (st : Status) (s : State) : (report st s).stopCmp = s.stopCmp := rfl
@[simp] theorem report_periodCmp (st : Status) (s : State) : (report st s).periodCmp = s.periodCmp := rfl
@[simp] theorem report_queryCmp (st : Status) (s : State) : (report st s).queryCmp = s.queryCmp := rfl
@[simp] theorem report_replies (st : Status) (s : State) : (report st s).replies = s.replies := rfl
@[simp] theorem report_env (st : Status) (s : State) : (report st s).env = s.env := rfl

/-- What `report` leaves in the queue (R212). -/
theorem report_q (st : Status) (s : State) : (report st s).q = (enqueue (statusFrame st s.nowMs) s).q := rfl

@[simp] theorem tableOverflow_params (s : State) : (tableOverflow s).params = s.params := by simp [tableOverflow]
@[simp] theorem tableOverflow_rx (s : State) : (tableOverflow s).rx = s.rx := by simp [tableOverflow]
@[simp] theorem tableOverflow_stopCmp (s : State) : (tableOverflow s).stopCmp = s.stopCmp := by simp [tableOverflow]
@[simp] theorem tableOverflow_periodCmp (s : State) : (tableOverflow s).periodCmp = s.periodCmp := by simp [tableOverflow]
@[simp] theorem tableOverflow_queryCmp (s : State) : (tableOverflow s).queryCmp = s.queryCmp := by simp [tableOverflow]
@[simp] theorem tableOverflow_replies (s : State) : (tableOverflow s).replies = s.replies := by simp [tableOverflow]
@[simp] theorem tableOverflow_env (s : State) : (tableOverflow s).env = s.env := by simp [tableOverflow]

@[simp] theorem tableOverflow_tx (s : State) :
    (tableOverflow s).tx = { s.tx.clearTable with building := false } := by simp [tableOverflow]

@[simp] theorem rxError_params (st : Status) (s : State) : (rxError st s).params = s.params := by simp [rxError]
@[simp] theorem rxError_tx (st : Status) (s : State) : (rxError st s).tx = s.tx := by simp [rxError]
@[simp] theorem rxError_stopCmp (st : Status) (s : State) : (rxError st s).stopCmp = s.stopCmp := by simp [rxError]
@[simp] theorem rxError_periodCmp (st : Status) (s : State) : (rxError st s).periodCmp = s.periodCmp := by simp [rxError]
@[simp] theorem rxError_queryCmp (st : Status) (s : State) : (rxError st s).queryCmp = s.queryCmp := by simp [rxError]
@[simp] theorem rxError_replies (st : Status) (s : State) : (rxError st s).replies = s.replies := by simp [rxError]
@[simp] theorem rxError_env (st : Status) (s : State) : (rxError st s).env = s.env := by simp [rxError]

/-- What an error leaves of the receiver (R150). -/
@[simp] theorem rxError_rx (st : Status) (s : State) :
    (rxError st s).rx = { s.rx with frame := RxFrame.empty, state := .errorInFrame } := by simp [rxError]

/-- What an error leaves in the queue (R150). -/
theorem rxError_q (st : Status) (s : State) :
    (rxError st s).q = (enqueue { s.rx.frame with status := st } s).q := by simp [rxError]

@[simp] theorem recover_params (s : State) : (recover s).params = s.params := by simp [recover]
@[simp] theorem recover_tx (s : State) : (recover s).tx = s.tx := by simp [recover]
@[simp] theorem recover_stopCmp (s : State) : (recover s).stopCmp = s.stopCmp := by simp [recover]
@[simp] theorem recover_periodCmp (s : State) : (recover s).periodCmp = s.periodCmp := by simp [recover]
@[simp] theorem recover_queryCmp (s : State) : (recover s).queryCmp = s.queryCmp := by simp [recover]
@[simp] theorem recover_replies (s : State) : (recover s).replies = s.replies := by simp [recover]
@[simp] theorem recover_env (s : State) : (recover s).env = s.env := by simp [recover]
@[simp] theorem recover_rx (s : State) : (recover s).rx = { s.rx with state := .errorInFrame } := by simp [recover]
theorem recover_q (s : State) : (recover s).q = (report .systemRecover s).q := by simp [recover]

@[simp] theorem busFailure_params (s : State) : (busFailure s).params = s.params := by simp [busFailure]
@[simp] theorem busFailure_tx (s : State) : (busFailure s).tx = s.tx := by simp [busFailure]
@[simp] theorem busFailure_stopCmp (s : State) : (busFailure s).stopCmp = s.stopCmp := by simp [busFailure]
@[simp] theorem busFailure_periodCmp (s : State) : (busFailure s).periodCmp = s.periodCmp := by simp [busFailure]
@[simp] theorem busFailure_queryCmp (s : State) : (busFailure s).queryCmp = s.queryCmp := by simp [busFailure]
@[simp] theorem busFailure_replies (s : State) : (busFailure s).replies = s.replies := by simp [busFailure]
@[simp] theorem busFailure_env (s : State) : (busFailure s).env = s.env := by simp [busFailure]
@[simp] theorem busFailure_rx (s : State) : (busFailure s).rx = { s.rx with state := .failure } := by simp [busFailure]
theorem busFailure_q (s : State) : (busFailure s).q = (report .systemFailure s).q := by simp [busFailure]

/-! ## Pulse table -/

/-- `push_phase` either overflows or appends one entry (R106). -/
theorem pushPhase_cases (t : Tx) (d : Word) :
    (t.pushPhase d = none ∧ (67 ≤ t.n.val ∨ 2 ^ 32 ≤ t.countNow.toNat + d.toNat)) ∨
    ∃ h : t.n.val < 67, t.countNow.toNat + d.toNat < 2 ^ 32 ∧
      t.pushPhase d = some { t with
        countNow := t.countNow + d
        count := t.count.set t.n.val (t.countNow + d) h
        n := ⟨t.n.val + 1, by omega⟩ } := by
  unfold Tx.pushPhase
  split
  · next h => exact .inr ⟨h.1, h.2, rfl⟩
  · next h => exact .inl ⟨rfl, by omega⟩

/-- The entries of a table after one of them is written. -/
theorem entry_set (t : Tx) (c : Word) (k : Nat) (hk : k < 67) (t' : Tx) (ht : t'.count = t.count.set k c hk)
    (i : Fin 67) : t'.entry i = if k = i.val then c else t.entry i := by
  unfold Tx.entry; rw [ht]; exact Vector.getElem_set ..

/-! ## Scheduler -/

/-- `rx_schedule_transmission` starts the table, or leaves it waiting; `rx.end_ifi` may be written (R191). -/
theorem rxScheduleTransmission_cases (s : State) :
    ∃ e, (s.tx.running = false ∧ rxScheduleTransmission s = txStart { s with rx.endIfi := e }) ∨
      ∃ c, rxScheduleTransmission s = { s with rx := { s.rx with endIfi := e, pendingTx := true }, periodCmp := c } := by
  have retry : ∀ u : State, (u.tx.running = false ∧ startOrRetry u = txStart u) ∨
      ∃ c, startOrRetry u = { u with rx := { u.rx with pendingTx := true }, periodCmp := c } := by
    intro u; unfold startOrRetry
    cases h : u.tx.running
    · exact .inl ⟨rfl, by simp⟩
    · exact .inr ⟨_, rfl⟩
  unfold rxScheduleTransmission
  split
  · refine ⟨s.rx.endIfi, ?_⟩
    obtain h | ⟨c, h⟩ := retry s
    · exact .inl h
    · exact .inr ⟨c, h⟩
  · refine ⟨s.settleEnd, ?_⟩
    unfold scheduleInWindow
    split
    · obtain h | ⟨c, h⟩ := retry { s with rx.endIfi := s.settleEnd }
      · exact .inl h
      · exact .inr ⟨c, h⟩
    · exact .inr ⟨_, rfl⟩
  all_goals exact ⟨s.rx.endIfi, .inr ⟨s.periodCmp, rfl⟩⟩

/-- `schedule_settling_timeout` opens the window, and then schedules what waits or a repeat (R190, R197). -/
theorem scheduleSettlingTimeout_cases (s : State) :
    (s.rx.pendingTx = false ∧ scheduleSettlingTimeout s = openWindow s) ∨
    (s.rx.pendingTx = true ∧ scheduleSettlingTimeout s = rxScheduleTransmission (openWindow s)) ∨
    (s.rx.pendingTx = false ∧ s.tx.armed = true ∧ 0 < s.tx.rep.toNat ∧ scheduleSettlingTimeout s =
      rxScheduleTransmission { openWindow s with tx := { s.tx with rep := s.tx.rep - 1 } }) := by
  unfold scheduleSettlingTimeout State.repeatPending
  cases hp : s.rx.pendingTx
  · by_cases h : s.tx.armed = true ∧ 0 < s.tx.rep.toNat
    · exact .inr (.inr ⟨rfl, h.1, h.2, by simp [h.1, h.2]⟩)
    · refine .inl ⟨rfl, ?_⟩
      rw [if_neg (by simp), if_neg]
      simpa using h
  · exact .inr (.inl ⟨rfl, by simp⟩)

/-! ## Receiver -/

/-- `capture_bit` appends one bit, or is the error of a 33rd bit (R149). -/
theorem captureBit_cases (b : Bool) (s : State) :
    (32 ≤ s.rx.frame.length ∧ captureBit b s = rxError .errorReceiveDataTiming s) ∨
    (s.rx.frame.length < 32 ∧ captureBit b s = { s with rx := { s.rx with
      frame := { s.rx.frame with
        data := (s.rx.frame.data <<< 1) ||| (BitVec.ofBool b).setWidth 32
        length := s.rx.frame.length + 1 }
      state := .dataBitInside } }) := by
  unfold captureBit
  split
  · next h => exact .inl ⟨h, rfl⟩
  · next h => exact .inr ⟨by omega, rfl⟩

/-- What a captured bit does to the number assembled so far (20_memory.md R42). -/
theorem captured_toNat (d : Word) (b : Bool) (h : d.toNat < 2 ^ 31) :
    ((d <<< 1) ||| (BitVec.ofBool b).setWidth 32).toNat = 2 * d.toNat + b.toNat := by
  have h1 : (d <<< 1).toNat = 2 * d.toNat := by
    rw [BitVec.toNat_shiftLeft, Nat.shiftLeft_eq]; omega
  rw [BitVec.toNat_or, h1]
  cases b
  · simp
  · simp only [BitVec.ofBool_true, BitVec.toNat_setWidth, Bool.toNat_true]
    rw [show (BitVec.toNat 1 % 2 ^ 32 : Nat) = 1 from rfl, show 2 * d.toNat = d.toNat <<< 1 by rw [Nat.shiftLeft_eq]; omega,
      ← Nat.shiftLeft_add_eq_or_of_lt (by decide)]

end Sys2Proof.Machine
end

