-- ==== Sys2Proof/Laws/Agenda.lean ====
section
/-! SUPPORT. What one step can do, said once: which operation is fetched and from which state, how the step ends, and
what presenting an instant can do. Provers cite these and do not unfold `fetch`, `step` or `advance`. -/

namespace Sys2Proof.Machine

open Sys2Proof

/-! ## Fetching -/

/-- Taking an event hands it on with its input taken, or takes a match that does not occur, or refuses a match whose
channel is not due. -/
theorem fetchEvent_cases (i : Instr) (s : State) :
    (eventAllowed i s = true ∧ fetchEvent i s = .op i (takeEvent i s)) ∨
      (eventAllowed i s = false ∧ matchVoid i s = true ∧ fetchEvent i s = .void (takeEvent i s)) ∨
      (eventAllowed i s = false ∧ matchVoid i s = false ∧ fetchEvent i s = .notDue i) := by
  cases h : eventAllowed i s <;> cases h' : matchVoid i s <;> simp [fetchEvent, h, h']

/-- Taking a command word either hands on its operation, or finds that it selects none. -/
theorem fetchCommand_cases (w : BitVec 64) (rest : List (BitVec 64)) (s : State) :
    (∃ i, decodeCmd w = .ok i ∧ fetchCommand w rest s = .op i (takeCommand rest s)) ∨
      ((∃ e, decodeCmd w = .error e) ∧ fetchCommand w rest s = .noCommand (takeCommand rest s)) := by
  rcases h : decodeCmd w with e | i <;> simp [fetchCommand, h]

/-- Everything `fetch` can find. -/
theorem fetch_cases (s : State) :
    (∃ i, decodeEvt (maskInput s.eventInput s.env.phase.mask) = .ok i ∧ fetch s = fetchEvent i s) ∨
    ((∃ e, decodeEvt (maskInput s.eventInput s.env.phase.mask) = .error e) ∧
      ((∃ w rest, s.env.cmds = w :: rest ∧ fetch s = fetchCommand w rest s) ∨
        (s.env.cmds = [] ∧
          ((∃ i, decodeEvt s.eventInput = .ok i ∧ fetch s = fetchEvent i s) ∨
            ((∃ e, decodeEvt s.eventInput = .error e) ∧ fetch s = .quiet))))) := by
  rcases h : decodeEvt (maskInput s.eventInput s.env.phase.mask) with e | i
  · rcases hc : s.env.cmds with _ | ⟨w, rest⟩
    · rcases hd : decodeEvt s.eventInput with e' | i <;> simp [fetch, h, hc, hd]
    · simp [fetch, h, hc]
  · simp [fetch, h]

/-- An operation is fetched with its own input taken and nothing else changed: an event that may take effect now, or
the host's next command. -/
theorem fetch_op_cases {i : Instr} {s u : State} (h : fetch s = .op i u) :
    (eventAllowed i s = true ∧ u = takeEvent i s) ∨
      ∃ w rest, s.env.cmds = w :: rest ∧ decodeCmd w = .ok i ∧ u = takeCommand rest s := by
  have ev : ∀ j, fetchEvent j s = .op i u → eventAllowed i s = true ∧ u = takeEvent i s := by
    intro j hj
    obtain ⟨ha, hf⟩ | ⟨_, _, hf⟩ | ⟨_, _, hf⟩ := fetchEvent_cases j s <;> rw [hf] at hj <;> cases hj
    exact ⟨ha, rfl⟩
  obtain ⟨j, _, hf⟩ | ⟨_, ⟨w, rest, hc, hf⟩ | ⟨_, ⟨j, _, hf⟩ | ⟨_, hf⟩⟩⟩ := fetch_cases s <;> rw [hf] at h
  · exact .inl (ev j h)
  · obtain ⟨j, hd, hf⟩ | ⟨_, hf⟩ := fetchCommand_cases w rest s <;> rw [hf] at h <;> cases h
    exact .inr ⟨w, rest, hc, hd, rfl⟩
  · exact .inl (ev j h)
  · cases h

/-- A word that selects no operation is taken and nothing else is changed. -/
theorem fetch_noCommand_cases {s u : State} (h : fetch s = .noCommand u) :
    ∃ w rest e, s.env.cmds = w :: rest ∧ decodeCmd w = .error e ∧ u = takeCommand rest s := by
  have ev : ∀ j, fetchEvent j s ≠ .noCommand u := by
    intro j hj
    obtain ⟨_, hf⟩ | ⟨_, _, hf⟩ | ⟨_, _, hf⟩ := fetchEvent_cases j s <;> rw [hf] at hj <;> cases hj
  obtain ⟨j, _, hf⟩ | ⟨_, ⟨w, rest, hc, hf⟩ | ⟨_, ⟨j, _, hf⟩ | ⟨_, hf⟩⟩⟩ := fetch_cases s <;> rw [hf] at h
  · exact absurd h (ev j)
  · obtain ⟨j, hd, hf⟩ | ⟨⟨e, hd⟩, hf⟩ := fetchCommand_cases w rest s <;> rw [hf] at h <;> cases h
    exact ⟨w, rest, e, hc, hd, rfl⟩
  · exact absurd h (ev j)
  · cases h

/-- A match that does not occur is taken and nothing else is changed. -/
theorem fetch_void_cases {s u : State} (h : fetch s = .void u) :
    ∃ i, eventAllowed i s = false ∧ matchVoid i s = true ∧ u = takeEvent i s := by
  have ev : ∀ j, fetchEvent j s = .void u → eventAllowed j s = false ∧ matchVoid j s = true ∧ u = takeEvent j s := by
    intro j hj
    obtain ⟨_, hf⟩ | ⟨ha, hv, hf⟩ | ⟨_, _, hf⟩ := fetchEvent_cases j s <;> rw [hf] at hj <;> cases hj
    exact ⟨ha, hv, rfl⟩
  obtain ⟨j, _, hf⟩ | ⟨_, ⟨w, rest, hc, hf⟩ | ⟨_, ⟨j, _, hf⟩ | ⟨_, hf⟩⟩⟩ := fetch_cases s <;> rw [hf] at h
  · exact ⟨j, ev j h⟩
  · obtain ⟨j, hd, hf⟩ | ⟨_, hf⟩ := fetchCommand_cases w rest s <;> rw [hf] at h <;> cases h
  · exact ⟨j, ev j h⟩
  · cases h

/-- A match that may take effect has its channel armed at the present time (10_state.md R35). -/
theorem stop_due_of_allowed {s : State} (h : eventAllowed .rxStopbitMatch s = true) :
    s.stopCmp.armed = true ∧ s.stopCmp.count = s.nowUs := by simpa [eventAllowed, Compare.due] using h

theorem period_due_of_allowed {s : State} (h : eventAllowed .rxPeriodMatch s = true) :
    s.periodCmp.armed = true ∧ s.periodCmp.count = s.nowUs := by simpa [eventAllowed, Compare.due] using h

theorem query_due_of_allowed {s : State} (h : eventAllowed .rxQueryMatch s = true) :
    s.queryCmp.armed = true ∧ s.queryCmp.count = s.nowUs := by simpa [eventAllowed, Compare.due] using h

/-- An event decoded from the vector of an instant is not a command. -/
theorem decodeCmd_isCommand {w : BitVec 64} {i : Instr} (h : decodeCmd w = .ok i) : isCommand i := by
  unfold decodeCmd at h
  split at h <;> cases h <;> rfl

/-! ## The end of a step -/

/-- What follows an operation: after a `RESET` the rest of its instant is discarded; after another the edge of the bus
change it made is delivered, if it made one. -/
theorem afterOp_cases (i : Instr) (s t : State) :
    (i = .reset ∧ afterOp i s t = discardInstant t) ∨
    (i ≠ .reset ∧ t.lineActive ≠ s.lineActive ∧ t.edgeDue = true ∧
      afterOp i s t = rxEdge t.nowUs t.lineActive { t with env := { t.env with seen := t.lineActive } }) ∨
    (i ≠ .reset ∧ (t.lineActive = s.lineActive ∨ t.edgeDue = false) ∧ afterOp i s t = t) := by
  have hc : (t.lineActive ≠ s.lineActive ∧ t.edgeDue = true ∧ consequentEdge s t =
        rxEdge t.nowUs t.lineActive { t with env := { t.env with seen := t.lineActive } }) ∨
      ((t.lineActive = s.lineActive ∨ t.edgeDue = false) ∧ consequentEdge s t = t) := by
    unfold consequentEdge
    split
    · next h => simp at h; exact .inl ⟨h.1, h.2, rfl⟩
    · next h => simp at h; exact .inr ⟨by by_cases hl : t.lineActive = s.lineActive <;> simp_all, rfl⟩
  cases i
  case reset => exact .inl ⟨rfl, rfl⟩
  all_goals
    obtain ⟨h1, h2, h3⟩ | ⟨h1, h2⟩ := hc
    · exact .inr (.inl ⟨by simp, h1, h2, h3⟩)
    · exact .inr (.inr ⟨by simp, h1, h2⟩)

/-- Everything a step that answers a next state can do: run an operation it fetched, report a word that selects none,
take a presented match that does not occur, or let time pass. -/
theorem step_cases {s t : State} (h : step s = .next t) :
    (∃ i u v, fetch (presentArrived s) = .op i u ∧ exec i u = .next v ∧ t = afterOp i u v) ∨
    (∃ u, fetch (presentArrived s) = .noCommand u ∧ t = badCommand u) ∨
    (∃ i, fetch (presentArrived s) = .void t ∧ t = takeEvent i (presentArrived s)) ∨
    (fetch (presentArrived s) = .quiet ∧ t = advance (presentArrived s)) := by
  unfold step at h
  rcases hf : fetch (presentArrived s) with ⟨i, u⟩ | u | u | i | _ <;> simp only [hf] at h
  · unfold runOp at h
    split at h
    · next v hv => cases h; exact .inl ⟨i, u, v, rfl, hv, rfl⟩
    · cases h
    · cases h
  · cases h; exact .inr (.inl ⟨u, rfl, rfl⟩)
  · cases h; obtain ⟨i, _, _, hu⟩ := fetch_void_cases hf; exact .inr (.inr (.inl ⟨i, rfl, hu⟩))
  · cases h
  · cases h; exact .inr (.inr (.inr ⟨rfl, rfl⟩))

/-! ## What is presented -/

/-- A bit of several vectors as one is a bit of one of them. -/
theorem getLsbD_presentedVec (es : List EventInput) (k : Nat) :
    (presentedVec es).getLsbD k = true ↔ ∃ e ∈ es, e.vec.getLsbD k = true := by
  induction es with
  | nil => simp [presentedVec]
  | cons e es ih =>
    simp only [presentedVec, List.foldr_cons, BitVec.getLsbD_or, Bool.or_eq_true, List.mem_cons, exists_eq_or_imp]
    exact or_congr Iff.rfl ih

/-- Several vectors as one have none of the bits of `b` exactly if no vector has one. -/
theorem presentedVec_and_eq_zero (es : List EventInput) (b : BitVec 6) :
    presentedVec es &&& b = 0 ↔ ∀ e ∈ es, e.vec &&& b = 0 := by
  induction es with
  | nil => simp [presentedVec]
  | cons e es ih =>
    have hc : presentedVec (e :: es) = e.vec ||| presentedVec es := rfl
    have hd : (e.vec ||| presentedVec es) &&& b = (e.vec &&& b) ||| (presentedVec es &&& b) := by
      ext k hk; simp [Bool.and_or_distrib_right]
    rw [hc, hd, List.forall_mem_cons, ← ih]
    exact BitVec.or_eq_zero_iff

/-- Taking an event no vector has leaves the vectors as they are. -/
theorem dropEvent_of_none {b : BitVec 6} {es : List EventInput} (h : ∀ e ∈ es, e.vec &&& b = 0) :
    dropEvent b es = es := by
  induction es with
  | nil => rfl
  | cons e es ih =>
    rw [dropEvent, if_pos (h e (by simp)), ih (fun x hx => h x (by simp [hx]))]

/-- Taking an event takes it from the first vector that has it. -/
theorem dropEvent_of_first {b : BitVec 6} {pre post : List EventInput} {e : EventInput}
    (hpre : ∀ x ∈ pre, x.vec &&& b = 0) (he : e.vec &&& b ≠ 0) :
    dropEvent b (pre ++ e :: post) =
      pre ++ if e.vec &&& ~~~ b = 0 then post else { e with vec := e.vec &&& ~~~ b } :: post := by
  induction pre with
  | nil => rw [List.nil_append, dropEvent, if_neg he]; rfl
  | cons x pre ih =>
    rw [List.cons_append, dropEvent, if_pos (hpre x (by simp)), ih (fun y hy => hpre y (by simp [hy]))]; rfl

/-- Every vector left after an event is taken was presented before, with no event added. -/
theorem mem_dropEvent {b : BitVec 6} {es : List EventInput} {x : EventInput} (h : x ∈ dropEvent b es) :
    ∃ e ∈ es, x.vec = e.vec ∨ x.vec = e.vec &&& ~~~ b := by
  induction es with
  | nil => cases h
  | cons e es ih =>
    rw [dropEvent] at h
    split at h
    · rcases List.mem_cons.mp h with rfl | h
      · exact ⟨x, by simp, .inl rfl⟩
      · obtain ⟨y, hy, hx⟩ := ih h; exact ⟨y, by simp [hy], hx⟩
    · split at h
      · exact ⟨x, by simp [h], .inl rfl⟩
      · rcases List.mem_cons.mp h with rfl | h
        · exact ⟨e, by simp, .inr rfl⟩
        · exact ⟨x, by simp [h], .inl rfl⟩

/-- What is presented once all that has come is: vectors of the instant and those of entries that have come. -/
theorem mem_presentArrived {s : State} {e : EventInput} (h : e ∈ (presentArrived s).env.presented) :
    e ∈ s.env.presented ∨ ∃ i ∈ s.env.timeline, i.time ≤ s.env.now ∧ e = i.event := by
  simp only [presentArrived_env_presented, eventsOf, List.mem_append, List.mem_filter, List.mem_map,
    decide_eq_true_eq] at h
  rcases h with h | ⟨⟨i, ⟨hi, ht⟩, rfl⟩, -⟩
  · exact .inl h
  · exact .inr ⟨i, hi, ht, rfl⟩

/-- What is left of the timeline lies later. -/
theorem mem_presentArrived_timeline {s : State} {i : Instant} :
    i ∈ (presentArrived s).env.timeline ↔ i ∈ s.env.timeline ∧ s.env.now < i.time := by
  simp 

/-! ## Building a frame's table -/

/-- `t'` differs from `t` at most in what building a table writes. -/
def Tx.BuiltFrom (t t' : Tx) : Prop :=
  t' = { t with count := t'.count, n := t'.n, countNow := t'.countNow, levelHigh := t'.levelHigh }

theorem Tx.BuiltFrom.refl (t : Tx) : t.BuiltFrom t := rfl

theorem Tx.BuiltFrom.trans {t u v : Tx} (h : t.BuiltFrom u) (h' : u.BuiltFrom v) : t.BuiltFrom v := by
  unfold Tx.BuiltFrom at *; rw [h', h]

theorem Tx.BuiltFrom.level {t u : Tx} (h : t.BuiltFrom u) (b : Level) : t.BuiltFrom { u with levelHigh := b } := by
  unfold Tx.BuiltFrom at *; rw [h]

theorem builtFrom_pushPhase {t u : Tx} {d : Word} (h : t.pushPhase d = some u) : t.BuiltFrom u := by
  obtain ⟨h0, _⟩ | ⟨_, _, h3⟩ := pushPhase_cases t d
  · rw [h0] at h; cases h
  · rw [h3] at h; cases h; rfl

theorem builtFrom_extendLast (t : Tx) (dOld dNew : Word) : t.BuiltFrom (t.extendLast dOld dNew) := by
  unfold Tx.BuiltFrom Tx.extendLast; split <;> rfl

/-- `add_bit` writes only what building a table writes (R107). -/
theorem builtFrom_addBit {t u : Tx} {b : Bool} (h : t.addBit b = some u) : t.BuiltFrom u := by
  simp only [Tx.addBit, Option.map_eq_some_iff] at h
  obtain ⟨v, hv, rfl⟩ := h
  apply Tx.BuiltFrom.level
  split at hv
  · exact (builtFrom_extendLast t tHalf tFull).trans (builtFrom_pushPhase hv)
  · obtain ⟨w, h1, h2⟩ := Option.bind_eq_some_iff.mp hv
    exact (builtFrom_pushPhase h1).trans (builtFrom_pushPhase h2)

theorem builtFrom_addBits {data : Word} {k : Nat} {t u : Tx} (h : Tx.addBits data k t = some u) : t.BuiltFrom u := by
  induction k generalizing t with
  | zero => cases h; exact .refl _
  | succ k ih =>
    obtain ⟨v, h1, h2⟩ := Option.bind_eq_some_iff.mp h
    exact (builtFrom_addBit h1).trans (ih h2)

end Sys2Proof.Machine
end

