-- ==== Sys2Proof/Laws/PerInstr.lean ====
section
/-! SUPPORT. Per-instruction statements. `EncodeMatchesTable`: the encoding of an operation, under the mask of its row of
spec/opcode_table.json, is the row's match value (30_encoding.md R62). -/

namespace Sys2Proof.Laws

open Sys2Proof

/-- Under the mask `mask` the presented word is `value`. -/
def matchesRow (mask value : Nat) : Encoded → Prop
  | .cmd w => w &&& BitVec.ofNat 64 mask = BitVec.ofNat 64 value
  | .evt e => e.vec &&& BitVec.ofNat 6 mask = BitVec.ofNat 6 value

/-- The row of an operation in spec/opcode_table.json matches its encoding. -/
def EncodeMatchesTable.Statement (i : Instr) : Prop :=
  match i with
  | .send _ _ _ _ _ => matchesRow 0xF000000000000000 0x1000000000000000 (encode i)
  | .seqStart => matchesRow 0xF000000000000000 0x2000000000000000 (encode i)
  | .seqNext _ => matchesRow 0xF000000000000000 0x3000000000000000 (encode i)
  | .seqExecute => matchesRow 0xF000000000000000 0x4000000000000000 (encode i)
  | .reqStatus => matchesRow 0xF000000000000000 0x5000000000000000 (encode i)
  | .tryReceive => matchesRow 0xF000000000000000 0x6000000000000000 (encode i)
  | .isTxIdle => matchesRow 0xF000000000000000 0x7000000000000000 (encode i)
  | .rxEdge _ _ => matchesRow 0x01 0x01 (encode i)
  | .rxStopbitMatch => matchesRow 0x02 0x02 (encode i)
  | .rxPeriodMatch => matchesRow 0x04 0x04 (encode i)
  | .rxQueryMatch => matchesRow 0x08 0x08 (encode i)
  | .txMatch => matchesRow 0x10 0x10 (encode i)
  | .reset => matchesRow 0x20 0x20 (encode i)

/-- The top four bits of a command word are its `op`, whatever the other fields are. -/
theorem packCmd_op (op kind prio : BitVec 4) (length rep : BitVec 8) (data : BitVec 32) :
    packCmd op kind prio length rep data &&& 0xF000000000000000#64 = op.setWidth 64 <<< 60 := by
  apply BitVec.eq_of_getLsbD_eq
  intro j hj
  unfold packCmd
  rcases Nat.lt_or_ge j 60 with h | h
  · have hm : (0xF000000000000000#64).getLsbD j = false := by interval_cases j <;> rfl
    rw [BitVec.getLsbD_and, hm, Bool.and_false, BitVec.getLsbD_shiftLeft]
    simp [h]
  · have hm : (0xF000000000000000#64).getLsbD j = true := by interval_cases j <;> rfl
    rw [BitVec.getLsbD_and, hm, Bool.and_true]
    simp only [BitVec.getLsbD_append, BitVec.getLsbD_shiftLeft, BitVec.getLsbD_setWidth]
    interval_cases j <;> simp

theorem EncodeMatchesTable.send (kind : KindField) (prio : BitVec 4) (length rep : BitVec 8) (data : Word) :
    EncodeMatchesTable.Statement (.send kind prio length rep data) := packCmd_op 1 (codeOfKind kind) prio length rep data

theorem EncodeMatchesTable.seqStart : EncodeMatchesTable.Statement .seqStart := packCmd_op 2 0 0 0 0 0

theorem EncodeMatchesTable.seqNext (periodUs : Word) : EncodeMatchesTable.Statement (.seqNext periodUs) :=
  packCmd_op 3 0 0 0 0 periodUs

theorem EncodeMatchesTable.seqExecute : EncodeMatchesTable.Statement .seqExecute := packCmd_op 4 0 0 0 0 0

theorem EncodeMatchesTable.reqStatus : EncodeMatchesTable.Statement .reqStatus := packCmd_op 5 0 0 0 0 0

theorem EncodeMatchesTable.tryReceive : EncodeMatchesTable.Statement .tryReceive := packCmd_op 6 0 0 0 0 0

theorem EncodeMatchesTable.isTxIdle : EncodeMatchesTable.Statement .isTxIdle := packCmd_op 7 0 0 0 0 0

theorem EncodeMatchesTable.rxEdge (tCap : Word) (level : Level) :
    EncodeMatchesTable.Statement (.rxEdge tCap level) :=
  show (1#6 &&& 1#6) = 1#6 from rfl

theorem EncodeMatchesTable.rxStopbitMatch : EncodeMatchesTable.Statement .rxStopbitMatch :=
  show (2#6 &&& 2#6) = 2#6 from rfl

theorem EncodeMatchesTable.rxPeriodMatch : EncodeMatchesTable.Statement .rxPeriodMatch :=
  show (4#6 &&& 4#6) = 4#6 from rfl

theorem EncodeMatchesTable.rxQueryMatch : EncodeMatchesTable.Statement .rxQueryMatch :=
  show (8#6 &&& 8#6) = 8#6 from rfl

theorem EncodeMatchesTable.txMatch : EncodeMatchesTable.Statement .txMatch :=
  show (16#6 &&& 16#6) = 16#6 from rfl

theorem EncodeMatchesTable.reset : EncodeMatchesTable.Statement .reset :=
  show (32#6 &&& 32#6) = 32#6 from rfl

end Sys2Proof.Laws
end

