-- ==== Sys2Proof/Tests/Slice0.lean ====
section
/-! SUPPORT. Tests: expected values are the spec's own (95_test_vectors.md, the rules' examples), and for every statement
with hypotheses a concrete state and operands that meet them. -/

namespace Sys2Proof.Tests

open Sys2Proof Sys2Proof.Machine

/-! ## Well-formed terms -/

theorem test_wf_refuses_a_reserved_kind_with_a_code_of_its_own :
    (Instr.send (.reserved 3) 1 8 0 0xFF).wellFormed = false := by decide

theorem test_wf_accepts_a_reserved_kind : (Instr.send (.reserved 6) 15 255 255 0xFFFFFFFF).wellFormed = true := by decide

/-! ## Decoding: words written out from 30_encoding.md R61, R62 (95_test_vectors.md V30) -/

theorem test_decode_send : decodeTableWord 64 0x13100800000000FF = some (.send .forward 1 8 0 0xFF) := by decide

theorem test_decode_send_back_to_back :
    decodeTableWord 64 0x1200080200000090 = some (.send .backToBack 0 8 2 0x90) := by decide

/-- Code 6 names no sendable kind; bits 51:48 are ignored (95_test_vectors.md V24, V29). -/
theorem test_decode_send_reserved :
    decodeTableWord 64 0x160F000000000000 = some (.send (.reserved 6) 0 0 0 0) := by decide

theorem test_decode_seq_start : decodeTableWord 64 0x2000000000000000 = some .seqStart := by decide

theorem test_decode_seq_next : decodeTableWord 64 0x3000000000000992 = some (.seqNext 2450) := by decide

theorem test_decode_seq_execute : decodeTableWord 64 0x4000000000000000 = some .seqExecute := by decide

theorem test_decode_req_status : decodeTableWord 64 0x5000000000000000 = some .reqStatus := by decide

theorem test_decode_try_receive : decodeTableWord 64 0x6000000000000000 = some .tryReceive := by decide

theorem test_decode_is_tx_idle : decodeTableWord 64 0x7000000000000000 = some .isTxIdle := by decide

theorem test_decode_reserved_ops :
    decodeTableWord 64 0 = none ∧ decodeTableWord 64 0x8000000000000000 = none ∧
      decodeTableWord 64 0xF000000000000000 = none := by decide

theorem test_decode_rx_edge : decodeTableWord 8 0b000001 = some (.rxEdge 0 false) := by decide

theorem test_decode_rx_edge_arguments : decodeEvt ⟨0b000001, 610000, true⟩ = .ok (.rxEdge 610000 true) := rfl

theorem test_decode_rx_stopbit_match : decodeTableWord 8 0b000010 = some .rxStopbitMatch := by decide

theorem test_decode_rx_period_match : decodeTableWord 8 0b000100 = some .rxPeriodMatch := by decide

theorem test_decode_rx_query_match : decodeTableWord 8 0b001000 = some .rxQueryMatch := by decide

theorem test_decode_tx_match : decodeTableWord 8 0b010000 = some .txMatch := by decide

theorem test_decode_reset : decodeTableWord 8 0b100000 = some .reset := by decide

/-- The order of 60_exceptions.md R241, not the order of the bits. -/
theorem test_decode_two_events : decodeTableWord 8 0b010001 = some .txMatch := by decide

theorem test_decode_no_event : decodeTableWord 8 0 = none := by decide

theorem test_encode_query : encode (.send .query 1 16 0 0xFF90) = .cmd 0x141010000000FF90 := by decide

/-- 95_test_vectors.md V30: `{Ok, true, true, 8, 0x90, 23}`. -/
theorem test_frame_word : frameWord ⟨true, true, .ok, 8, 0x90, 23⟩ = 0x00000017C000080000000090 := by decide

/-! ## Small states -/

/-- After reset, with the parameters every vector of 95_test_vectors.md takes. -/
def base : State := { State.reset with params := ⟨2, 100, 0, 0, 0, 0, true⟩ }

/-- `base` at the instant `T`. -/
def at' (T : Nat) (s : State) : State := { s with env := { s.env with now := T } }

/-- The next state of an operation. -/
def after (i : Instr) (s : State) : State :=
  match exec i s with
  | .next t => t
  | .fault _ => s
  | .refused _ => s

/-- `base` with the receiver in the state `x`. -/
def rxIn (x : RxState) (s : State) : State := { s with rx.state := x }

/-- The bus pulled active by another device. -/
def active (s : State) : State := { s with env := { s.env with ext := true } }

/-- A table of two entries, 417 and 834, as `SEQ_NEXT 417` twice makes it. -/
def table2 (s : State) : State :=
  { s with tx := { s.tx with count := (s.tx.count.set 0 417).set 1 834, n := 2, countNow := 834 } }

/-- That table under construction. -/
def building2 : State := { table2 base with tx := { (table2 base).tx with building := true } }

/-- That table armed and running, started at `T = 0`. -/
def running2 : State :=
  { table2 base with tx := { (table2 base).tx with
    armed := true, running := true, kind := .query, prio := 1, toggleOnMatch := true, line := true } }

/-- That table armed and waiting. -/
def waiting2 : State :=
  { table2 base with
    tx := { (table2 base).tx with armed := true, kind := .backToBack, rep := 1 }
    rx := { base.rx with pendingTx := true } }

/-! ## One step each -/

/-- 95_test_vectors.md V1, P1: 18 entries, the last 9539; the start is immediate. -/
theorem test_send_table :
    let t := after (.send .forward 1 8 0 0xFF) (at' 1000 base)
    t.tx.n = 18 ∧ t.tx.countNow = 9539 ∧ t.tx.t0 = 1000 ∧ t.tx.line = true ∧ t.tx.entry 16 = 7089 := by decide

/-- 95_test_vectors.md V24: the argument test comes before the busy test. -/
theorem test_send_bad_argument_first :
    (after (.send .forward 1 33 0 0) (at' 2000 running2)).q.items = [⟨false, false, .errorBadArgument, 0, 0, 2⟩] := by
  decide

theorem test_seq_start_clears :
    (after .seqStart (table2 base)).tx.n = 0 ∧ (after .seqStart (table2 base)).tx.building = true := by decide

theorem test_seq_start_busy :
    (after .seqStart (at' 2500 running2)).q.items = [⟨false, false, .errorCanNotProcess, 0, 0, 2⟩] := by decide

/-- 95_test_vectors.md P5, third phase. -/
theorem test_seq_next_pushes :
    (after (.seqNext 1500) building2).tx.table = [417, 834, 2334] := by decide

theorem test_seq_next_zero :
    (after (.seqNext 0) building2).q.items = [⟨false, false, .errorBadArgument, 0, 0, 0⟩] ∧
      (after (.seqNext 0) building2).tx.building = true := by decide

/-- 95_test_vectors.md P5. -/
theorem test_seq_execute_starts :
    let t := after .seqExecute (at' 1000 building2)
    t.tx.kind = .sequence ∧ t.tx.armed = true ∧ t.tx.t0 = 1000 ∧ t.tx.building = false := by decide

/-- 95_test_vectors.md V25. -/
theorem test_seq_execute_no_construction :
    (after .seqExecute base).q.items = [⟨false, false, .errorCanNotProcess, 0, 0, 0⟩] := by decide

/-- 42_receiver.md R168's example. -/
theorem test_req_status_idle :
    (after .reqStatus (at' 5000 base)).q.items = [⟨false, false, .timeout, 0, 0, 5⟩] := by decide

theorem test_req_status_window : (after .reqStatus (rxIn .interFrameIdle base)).q.items = [] := by decide

/-- 95_test_vectors.md V27. -/
theorem test_try_receive_marker :
    let t1 : RxFrame := ⟨false, false, .timeout, 0, 0, 1⟩
    let t2 : RxFrame := ⟨false, false, .timeout, 0, 0, 2⟩
    let t := after .tryReceive (at' 7000 { base with q := ⟨[t1, t2], true⟩ })
    t.q = ⟨[t2, ⟨false, false, .errorQueueFull, 0, 0, 7⟩], false⟩ ∧
      t.replies = [.received true 0x000000010001000000000000] := by decide

theorem test_try_receive_empty : (after .tryReceive base).replies = [.received false 0] := by decide

theorem test_is_tx_idle : (after .isTxIdle base).replies = [.txIdle true] ∧
    (after .isTxIdle running2).replies = [.txIdle false] := by decide

/-- 42_receiver.md R155, the edge at 2084. -/
theorem test_rx_edge_toggles :
    let s := { base with rx := { base.rx with
      state := .dataBitInside, lastEdge := 1251, lastBit := true, frame := ⟨false, false, .ok, 1, 1, 0⟩ } }
    let t := after (.rxEdge 2084 true) s
    t.rx.frame = ⟨false, false, .ok, 2, 0b10, 0⟩ ∧ t.rx.lastBit = false ∧ t.stopCmp = ⟨true, 4484⟩ := by decide

/-- 95_test_vectors.md P4. -/
theorem test_rx_edge_start_error :
    let s := { base with rx := { base.rx with
      state := .startBitStart, lastEdge := 5000, frame := ⟨false, false, .ok, 0, 0, 5⟩ } }
    let t := after (.rxEdge 5900 false) s
    t.q.items = [⟨false, false, .errorReceiveStartTiming, 0, 0, 5⟩] ∧ t.rx.state = .errorInFrame ∧
      t.stopCmp = ⟨true, 8300⟩ := by decide

/-- 95_test_vectors.md P1 at 10489. -/
theorem test_rx_stopbit_match_completes :
    let s := at' 10489 { base with rx := { base.rx with
      state := .dataBitInside, lastEdge := 8089, frame := ⟨true, false, .ok, 8, 0xFF, 1⟩ } }
    let t := after .rxStopbitMatch s
    t.q.items = [⟨true, false, .ok, 8, 0xFF, 1⟩] ∧ t.rx.state = .interFrameIdle ∧ t.periodCmp = ⟨true, 27589⟩ ∧
      t.rx.prev = ⟨true, 8, 0xFF, 1⟩ := by decide

/-- 95_test_vectors.md P3 at 12400. -/
theorem test_rx_stopbit_match_low :
    let s := at' 12400 (active { base with rx := { base.rx with state := .startBitStart, lastEdge := 10000 } })
    let t := after .rxStopbitMatch s
    t.rx.state = .low ∧ t.stopCmp = ⟨true, 510000⟩ ∧ t.q.items = [] := by decide

/-- 95_test_vectors.md P2 at 21677: the deferred start. -/
theorem test_rx_period_match_starts :
    let t := after .rxPeriodMatch (at' 21677 (rxIn .interFrameIdle waiting2))
    t.rx.state = .idle ∧ t.tx.t0 = 21677 ∧ t.tx.running = true ∧ t.rx.pendingTx = false := by decide

/-- 95_test_vectors.md P1 at 27589. -/
theorem test_rx_period_match_ends_the_window :
    (after .rxPeriodMatch (at' 27589 (rxIn .interFrameIdle base))).rx.state = .idle := by decide

/-- 95_test_vectors.md P7 at 31025. -/
theorem test_rx_query_match_timeout :
    (after .rxQueryMatch (at' 31025 (rxIn .interFrameIdle base))).q.items =
      [⟨false, false, .timeout, 0, 0, 31⟩] := by decide

theorem test_rx_query_match_in_a_frame :
    (after .rxQueryMatch (rxIn .startBitStart base)).q.items = [] := by decide

/-- 41_transmitter.md R120: the entry before the last ends active, and toggling is off for the last. -/
theorem test_tx_match_next :
    let t := after .txMatch (at' 417 running2)
    t.tx.index = 1 ∧ t.tx.line = false ∧ t.tx.toggleOnMatch = false ∧ t.tx.running = true := by decide

/-- 41_transmitter.md R121, R122: 17625 + 13400 = 31025 (95_test_vectors.md P7). -/
theorem test_tx_match_exhausts :
    let t := after .txMatch (at' 17625 { running2 with tx := { running2.tx with index := 1 } })
    t.tx.running = false ∧ t.tx.armed = false ∧ t.tx.line = false ∧ t.queryCmp = ⟨true, 31025⟩ := by decide

/-- 95_test_vectors.md V26. -/
theorem test_reset_line_active :
    let t := after .reset (active running2)
    t.rx.state = .failure ∧ t.q.items = [⟨false, false, .systemFailure, 0, 0, 0⟩] ∧ t.tx.line = false := by decide

theorem test_reset_line_idle :
    let t := after .reset (at' 7000 running2)
    t.rx.state = .idle ∧ t.rx.lastEdge = 7000 ∧ t.tx.armed = false ∧ t.tx.n = 0 := by decide

/-- 41_transmitter.md R116, 60_exceptions.md R242: the start edge follows its `SEND` in the same step. -/
theorem test_step_consequent_edge :
    (match step ((at' 1000 base).withFetchWord 64 0x13100800000000FF) with
      | .next t => decide (t.rx.state = .startBitStart) && t.rx.frame.loopback && decide (t.rx.frame.timestamp = 1)
      | .fault _ => false
      | .refused _ => false) = true := by decide

/-! ## Witnesses: for every statement with hypotheses, states and operands that meet them, clause by clause -/

theorem witness_DecodeOfEncode : (Instr.send (.reserved 15) 0 0 0 0).wellFormed = true := by decide

/-- Two words that differ in the reserved bits only. -/
theorem witness_CommandDecodingReadsOnlyItsFields :
    decodeCmd 0x3000000000000001 = .ok (.seqNext 1) ∧
      (0x300F000000000001 : BitVec 64).extractLsb' 52 12 = (0x3000000000000001 : BitVec 64).extractLsb' 52 12 ∧
      (0x300F000000000001 : BitVec 64).extractLsb' 0 48 = (0x3000000000000001 : BitVec 64).extractLsb' 0 48 :=
  ⟨rfl, by decide, by decide⟩

/-- Two `REQ_STATUS` words that share nothing but `op`, and two `SEQ_NEXT` words that share `op` and bits 31:0. -/
theorem witness_CommandDecoding_unusedFields :
    (0x5000000000000000 : BitVec 64).extractLsb' 60 4 = 5 ∧ (0x5FFFFFFFFFFFFFFF : BitVec 64).extractLsb' 60 4 = 5 ∧
      (0x3000000000000992 : BitVec 64).extractLsb' 60 4 = 3 ∧ (0x3FFFFFFF00000992 : BitVec 64).extractLsb' 60 4 = 3 ∧
      (0x3FFFFFFF00000992 : BitVec 64).extractLsb' 0 32 = (0x3000000000000992 : BitVec 64).extractLsb' 0 32 := by decide

theorem witness_EventVectorIsTakenInOrder :
    decodeEvt ⟨0b001100, 0, false⟩ = .ok .rxPeriodMatch ∧ eventBit .rxQueryMatch ≠ 0 ∧
      eventBit .rxQueryMatch &&& 0b001100 = eventBit .rxQueryMatch := ⟨rfl, by decide, by decide⟩

theorem witness_FrameWord : (⟨false, true, .timeout, 32, 0xFFFFFFFF, 0⟩ : RxFrame).length ≤ 32 := by decide

/-- An event vector presented at the present instant. -/
def presenting (v : BitVec 6) (s : State) : State := { s with env := { s.env with presented := [⟨v, 0, false⟩] } }

/-- A timeline. -/
def timed (is : List Instant) (s : State) : State := { s with env := { s.env with timeline := is } }

/-- An entry with one event vector, and one with a `REQ_STATUS`. -/
def eventAt (T : Nat) (v : BitVec 6) : Instant := ⟨T, none, ⟨v, 0, false⟩, []⟩
def commandAt (T : Nat) : Instant := ⟨T, none, ⟨0, 0, false⟩, [0x5000000000000000]⟩

/-- Command words presented at the present instant. -/
def commanding (ws : List (BitVec 64)) (s : State) : State := { s with env := { s.env with cmds := ws } }

theorem witness_StepRuns_event :
    let p := presentArrived (presenting 0b100000 base)
    decodeEvt (maskInput p.eventInput p.env.phase.mask) = .ok .reset ∧ eventAllowed .reset p = true := ⟨rfl, rfl⟩

theorem witness_StepRuns_notDue :
    let p := presentArrived (presenting 0b000010 base)
    decodeEvt (maskInput p.eventInput p.env.phase.mask) = .ok .rxStopbitMatch ∧
      eventAllowed .rxStopbitMatch p = false ∧ matchVoid .rxStopbitMatch p = false := ⟨rfl, rfl, rfl⟩

/-- A `TX_MATCH` presented while a table runs that has not reached its entry. -/
theorem witness_StepRuns_txMatchVoid :
    let p := presentArrived (at' 416 (presenting 0b010000 running2))
    decodeEvt (maskInput p.eventInput p.env.phase.mask) = .ok .txMatch ∧
      eventAllowed .txMatch p = false ∧ matchVoid .txMatch p = true := ⟨rfl, rfl, rfl⟩

/-- An edge and the stop match due at its instant, presented in one vector. -/
def edgeAndMatch : State :=
  at' 2400 { rxIn .dataBitInside base with
    stopCmp := ⟨true, 2400⟩, env := { base.env with presented := [⟨0b000011, 2400, true⟩] } }

/-- 42_receiver.md R160: "the capture is applied first, re-arms the compare 2400 µs ahead, and the match does not
occur". -/
theorem test_edge_removes_the_match :
    (match step edgeAndMatch with
      | .next t => decide (t.stopCmp = ⟨true, 4800⟩) && (match fetch (presentArrived t) with
        | .void u => decide (u.stopCmp = ⟨true, 4800⟩ ∧ u.rx = t.rx ∧ u.q = t.q ∧ u.env.presented = [])
        | .op _ _ => false | .noCommand _ => false | .notDue _ => false | .quiet => false)
      | .fault _ => false
      | .refused _ => false) = true := by decide

theorem witness_StepRuns_removedMatch :
    let p := presentArrived { edgeAndMatch with
      stopCmp := ⟨true, 4800⟩, env := { edgeAndMatch.env with matched := 0b000010, presented := [⟨0b000010, 0, true⟩] } }
    decodeEvt (maskInput p.eventInput p.env.phase.mask) = .ok .rxStopbitMatch ∧
      eventAllowed .rxStopbitMatch p = false ∧ matchVoid .rxStopbitMatch p = true := ⟨rfl, rfl, rfl⟩

theorem witness_StepRuns_command :
    let p := presentArrived (commanding [0x7000000000000000] base)
    decodeEvt (maskInput p.eventInput p.env.phase.mask) = .error .noEvent ∧ p.env.cmds = 0x7000000000000000 :: [] ∧
      decodeCmd 0x7000000000000000 = .ok .isTxIdle ∧
      exec .isTxIdle (takeCommand [] p) = .next (isTxIdle (takeCommand [] p)) := ⟨rfl, rfl, rfl, rfl⟩

/-- The second of three presented vectors is the first with an `RX_EDGE`; it has another event beside it, the third
has not. -/
theorem witness_StepRuns_taking :
    let p := presentArrived (timed
      [⟨0, none, ⟨0b100000, 0, false⟩, []⟩, ⟨0, none, ⟨0b001001, 7, true⟩, []⟩, ⟨0, none, ⟨0b000001, 9, false⟩, []⟩] base)
    p.env.presented = [⟨0b100000, 0, false⟩] ++ ⟨0b001001, 7, true⟩ :: [⟨0b000001, 9, false⟩] ∧
      (∀ x ∈ [(⟨0b100000, 0, false⟩ : EventInput)], x.vec.getLsbD 0 = false ∧ x.vec &&& eventBit (.rxEdge 7 true) = 0) ∧
      (0b001001 : BitVec 6) &&& eventBit (.rxEdge 7 true) ≠ 0 ∧
      (∃ x ∈ (takeEvent (.rxEdge 7 true) p).env.presented, x.vec &&& eventBit (.rxEdge 7 true) ≠ 0) ∧
      (∀ x ∈ (takeEvent .rxQueryMatch p).env.presented, x.vec &&& eventBit .rxQueryMatch = 0) := by decide

/-- 60_exceptions.md R241: two edges of one instant are both taken at step 3, before a command. -/
theorem test_two_edges_of_one_instant :
    (match step (timed [commandAt 0, ⟨0, none, ⟨1, 7, true⟩, []⟩, ⟨0, none, ⟨1, 9, false⟩, []⟩] base) with
      | .next t => decide (t.rx.lastEdge = 7) && (match fetch t with
        | .op i _ => decide (i = .rxEdge 9 false) | .noCommand _ => false | .void _ => false | .notDue _ => false | .quiet => false)
      | .fault _ => false
      | .refused _ => false) = true := by decide

/-- An event of a step already passed, with no command left: the second pass; one that may take effect, one not due. -/
theorem witness_StepRuns_secondPass :
    let s := fun v => presentArrived { presenting v base with env := { (presenting v base).env with phase := .host } }
    decodeEvt (maskInput (s 0b000001).eventInput (s 0b000001).env.phase.mask) = .error .noEvent ∧
      (s 0b000001).env.cmds = [] ∧ decodeEvt (s 0b000001).eventInput = .ok (.rxEdge 0 false) ∧
      eventAllowed (.rxEdge 0 false) (s 0b000001) = true ∧
      decodeEvt (maskInput (s 0b001000).eventInput (s 0b001000).env.phase.mask) = .error .noEvent ∧
      decodeEvt (s 0b001000).eventInput = .ok .rxQueryMatch ∧ eventAllowed .rxQueryMatch (s 0b001000) = false ∧
      matchVoid .rxQueryMatch (s 0b001000) = false :=
  ⟨rfl, rfl, rfl, rfl, rfl, rfl, rfl, rfl⟩

/-- Another device has pulled the bus active and nothing is presented. -/
theorem witness_StepRuns_busChange :
    let p := presentArrived (timed [⟨0, some true, ⟨0b001000, 0, false⟩, []⟩] base)
    (∀ x ∈ p.env.presented, x.vec &&& 0b110001 = 0) ∧ p.lineActive ≠ p.env.seen ∧ p.env.phase.number ≤ 3 ∧
      p.dueVector.getLsbD 4 = false := by decide

/-- The same at step 3 itself, with a table entry due whose step is passed. -/
theorem witness_StepRuns_busChange_txDue :
    let s := at' 417 (active { running2 with params := ⟨2, 100, 0, 0, 0, 0, false⟩ })
    let p := presentArrived { s with env := { s.env with phase := .rxEdge } }
    (∀ x ∈ p.env.presented, x.vec &&& 0b110001 = 0) ∧ p.lineActive ≠ p.env.seen ∧ p.env.phase.number ≤ 3 ∧
      p.env.phase = .rxEdge ∧ p.dueVector.getLsbD 4 = true := by decide

/-- 60_exceptions.md R233, 42_receiver.md R142: the capture unit delivers the edge of a bus change made by another
device, and the receiver begins a frame at that instant. -/
theorem test_step_bus_change_is_an_edge :
    (match step (at' 5000 (active base)) with
      | .next t => decide (t.rx.state = .startBitStart) && decide (t.rx.lastEdge = 5000) && t.env.seen
      | .fault _ => false
      | .refused _ => false) = true := by decide

theorem witness_PresentedTableWord_event : decodeTableWord 8 0b111111 = some .reset := by decide

theorem witness_ReservedOp :
    let p := presentArrived (commanding [0x0000000000000000, 0x8000000000000000] base)
    decodeEvt (maskInput p.eventInput p.env.phase.mask) = .error .noEvent ∧
      p.env.cmds = 0x0000000000000000 :: [0x8000000000000000] ∧ (opField 0x0000000000000000).toNat = 0 ∧
      8 ≤ (opField 0x8000000000000000).toNat ∧ 8 ≤ (opField 0xF000000000000000).toNat :=
  ⟨rfl, rfl, by decide, by decide, by decide⟩

theorem witness_ResetDiscards :
    (presenting 0b110011 base).env.phase = .reset ∧ (presenting 0b110011 base).presents 0b100000 ∧
      (timed [commandAt 0, eventAt 0 0b100000, commandAt 1] base).presents 0b100000 :=
  ⟨rfl, .inl ⟨⟨0b110011, 0, false⟩, by decide, by decide⟩, .inr ⟨eventAt 0 0b100000, by decide, by decide, by decide⟩⟩

/-- A change of `tx_line` that the receiver hears, one that another device covers, and one without loopback. -/
theorem witness_ConsequentEdge_level :
    (after .seqExecute building2).tx.line ≠ building2.tx.line ∧
      (after .seqExecute building2).lineActive ≠ building2.lineActive ∧
      (after .seqExecute (active building2)).lineActive = (active building2).lineActive ∧
      (after .seqExecute { building2 with params := ⟨2, 100, 0, 0, 0, 0, false⟩ }).lineActive = false := by decide

/-- 60_exceptions.md R242: without loopback a `TX_MATCH` makes no edge, and another device's change at its instant is
the `RX_EDGE` of step 3. -/
theorem test_other_devices_edge_is_step_3 :
    (match step (at' 417 (active { running2 with params := ⟨2, 100, 0, 0, 0, 0, false⟩ })) with
      | .next t => decide (t.tx.line = false ∧ t.rx.state = .idle ∧ t.env.seen = false) && (match fetch t with
        | .op i _ => decide (i = .rxEdge 417 true)
        | .noCommand _ => false | .void _ => false | .notDue _ => false | .quiet => false)
      | .fault _ => false
      | .refused _ => false) = true := by decide

/-- A `SEND` in `Idle` changes the line and the bus; `SEQ_START` does not. -/
theorem witness_ConsequentEdge :
    (after (.send .backward 0 8 0 0xA5) base).lineActive ≠ base.lineActive ∧
      (after (.send .backward 0 8 0 0xA5) base).lineActive ≠ (after (.send .backward 0 8 0 0xA5) base).env.seen ∧
      (after .seqStart base).lineActive = base.lineActive := by decide

theorem witness_EveryStepAnswers :
    (∀ e ∈ (presenting 0b100001 base).env.presented, e.vec &&& 0b001110 = 0) ∧
      ∀ i ∈ (timed [eventAt 5 0b010001] base).env.timeline, i.event.vec &&& 0b001110 = 0 := by decide

/-- Nothing to do now, a compare 2400 µs ahead. -/
theorem witness_TimePasses :
    let s := { base with stopCmp := ⟨true, 2400⟩ }
    fetch (presentArrived s) = .quiet ∧ s.waits ≠ [] ∧ 1 < s.nextWait := ⟨rfl, by decide, by decide⟩

/-- The timeline's next entry is what time passes to. -/
theorem witness_TimePasses_timeline :
    let s := timed [eventAt 9 0, eventAt 5 0] base
    fetch (presentArrived s) = .quiet ∧ (presentArrived s).waits = [9, 5] ∧ (presentArrived s).nextWait = 5 :=
  ⟨rfl, by decide, by decide⟩

/-- Two changes of the bus have come, the second counts; and none has. -/
theorem witness_TimePasses_bus :
    let come := (timed [⟨0, some true, ⟨0, 0, false⟩, []⟩, ⟨0, some false, ⟨0, 0, false⟩, []⟩, eventAt 0 1, eventAt 7 1]
      base).env.timeline.filter (fun i => decide (i.time ≤ 0))
    come = [⟨0, some true, ⟨0, 0, false⟩, []⟩] ++ ⟨0, some false, ⟨0, 0, false⟩, []⟩ :: [eventAt 0 1] ∧
      (∀ x ∈ [eventAt 0 1], x.bus = none) := by decide

/-- 60_exceptions.md R241, 20_memory.md R48: a `RESET` comes before the command of another entry of the same time, and
an edge too, in whichever order the entries stand. -/
theorem test_one_instant_in_two_entries :
    (match fetch (presentArrived (timed [commandAt 0, eventAt 0 0b100000] base)) with
      | .op i _ => decide (i = .reset) | .noCommand _ => false | .void _ => false | .notDue _ => false | .quiet => false) = true ∧
    (match fetch (presentArrived (timed [commandAt 0, eventAt 0 0b000001] base)) with
      | .op i _ => decide (i = .rxEdge 0 false) | .noCommand _ => false | .void _ => false | .notDue _ => false | .quiet => false) = true :=
  by decide

theorem witness_Send_bad :
    badSendArguments .backward 0 33 ∧ badSendArguments .none 0 0 ∧ badSendArguments (.reserved 6) 0 0 ∧
      badSendArguments .forward 0 8 ∧ badSendArguments .query 6 8 :=
  ⟨.inl (by decide), .inr (.inl rfl), .inr (.inr (.inl ⟨6, rfl⟩)), .inr (.inr (.inr ⟨.inl rfl, by decide⟩)),
    .inr (.inr (.inr ⟨.inr rfl, by decide⟩))⟩

theorem witness_Send_good :
    ¬badSendArguments .forward 5 32 ∧ ¬badSendArguments .backward 15 0 ∧ running2.tx.armed = true ∧
      base.tx.armed = false := by
  simp [badSendArguments, base, State.reset, running2]

theorem witness_SendTable :
    FrameKind.backward ≠ .corrupt ∧ 32 ≤ 32 ∧
      (base.tx.encodeFrame .backward 32 0x80000000).map (fun t => (t.n, t.countNow)) = some (66, 29971) := by decide

theorem witness_CorruptSend : 32 < (33#8).toNat ∧ (32#8).toNat ≤ 32 ∧ base.tx.armed = false := by decide

theorem witness_SeqStart : running2.tx.armed = true ∧ base.tx.armed = false := by decide

theorem witness_SeqNext_pushes :
    building2.tx.armed = false ∧ building2.tx.building = true ∧ (1500 : Word) ≠ 0 ∧ building2.tx.n.val < 67 ∧
      building2.tx.countNow.toNat + (1500 : Word).toNat < 2 ^ 32 ∧ base.tx.building = false := by decide

/-- 95_test_vectors.md V25: the 68th phase; and a running sum of exactly 2^32. -/
theorem witness_SeqNext_overflow :
    let full := { building2 with tx := { building2.tx with n := 67 } }
    full.tx.armed = false ∧ full.tx.building = true ∧ full.tx.n.val = 67 ∧
      2 ^ 32 ≤ building2.tx.countNow.toNat + (4294966462 : Word).toNat := by decide

theorem witness_SeqExecute :
    building2.tx.armed = false ∧ building2.tx.building = true ∧ building2.tx.n ≠ 0 ∧ base.tx.n = 0 := by decide

theorem witness_TxMatch :
    running2.tx.running = true ∧ running2.tx.index.val + 1 < running2.tx.n.val ∧
      ({ running2 with tx := { running2.tx with index := 1 } } : State).tx.index.val + 1 = running2.tx.n.val ∧
      base.tx.running = false := by decide

/-- A state that meets the invariants while a table runs. -/
theorem running2_inv : running2.Inv where
  armed_nonempty := by decide
  table_increasing := by
    intro i j hij hj
    have h1 : j.val < 2 := hj
    have h2 : i.val < j.val := hij
    have hi : i = 0 := Fin.ext (show i.val = 0 by omega)
    have hj : j = 1 := Fin.ext (show j.val = 1 by omega)
    subst hi hj
    decide
  countNow_last := by
    intro i hi
    have h1 : i.val + 1 = 2 := hi
    have hi : i = 1 := Fin.ext (show i.val = 1 by omega)
    subst hi
    decide
  running_armed := by decide
  building_unarmed := by decide
  pending_armed := by decide
  running_index := by decide
  frame_length := by decide
  frame_data := by decide
  frame_status := by decide
  frame_twice := by decide
  frame_empty := by decide
  queue_bound := by decide
  line_running := by decide
  queue_shaped := by intro f hf; cases hf
  armed_settles := by decide

/-- For the statements whose hypothesis is `Inv`: a running table with two entries left, an operation that is not
`RESET`, and the next state it answers. -/
theorem witness_Running :
    running2.Inv ∧ running2.tx.running = true ∧ running2.tx.armed = true ∧ Instr.txMatch ≠ .reset ∧
      exec .txMatch running2 = .next (txMatch running2) ∧ 1 < running2.tx.n.val - running2.tx.index.val :=
  ⟨running2_inv, by decide, by decide, by decide, rfl, by decide⟩

theorem witness_ArmedIsSet :
    building2.tx.armed = false ∧ (after .seqExecute building2).tx.armed = true ∧
      (after .txMatch { running2 with tx := { running2.tx with index := 1 } }).tx.armed = false := by decide

theorem witness_StartEdge : base.rx.state = .idle ∧ (rxIn .interFrameIdle base).rx.state = .interFrameIdle := by decide

theorem witness_EdgesThatDecodeNothing :
    (rxIn .low base).rx.state = .low ∧ (rxIn .failure base).rx.state = .failure ∧
      (rxIn .errorInFrame base).rx.state = .errorInFrame := by decide

/-- The ends of the windows, inside and outside (95_test_vectors.md V12). -/
theorem witness_StartBitEdge :
    (rxIn .startBitStart base).rx.state = .startBitStart ∧ spelledElapsed (rxIn .startBitStart base) 325 false = 325 ∧
      spelledElapsed (rxIn .startBitStart base) 508 false = 508 ∧
      ¬(325 ≤ spelledElapsed (rxIn .startBitStart base) 324 false) ∧
      ¬(spelledElapsed (rxIn .startBitStart base) 509 false ≤ 508) := by decide

theorem witness_InsideEdge :
    (rxIn .startBitInside base).rx.state = .startBitInside ∧ (rxIn .dataBitInside base).rx.state = .dataBitInside ∧
      spelledElapsed (rxIn .dataBitInside base) 658 true = 658 ∧
      spelledElapsed (rxIn .dataBitInside base) 1008 true = 1008 ∧
      ¬(spelledElapsed (rxIn .dataBitInside base) 509 true ≤ 508) ∧
      ¬(658 ≤ spelledElapsed (rxIn .dataBitInside base) 657 true) ∧
      ¬(spelledElapsed (rxIn .dataBitInside base) 1009 true ≤ 1008) := by decide

theorem witness_BoundaryEdge :
    (rxIn .dataBitStart base).rx.state = .dataBitStart ∧ spelledElapsed (rxIn .dataBitStart base) 417 true = 417 ∧
      ¬(spelledElapsed (rxIn .dataBitStart base) 833 true ≤ 508) := by decide

theorem witness_BitsAccumulate :
    (⟨false, false, .ok, 31, 0, 0⟩ : RxFrame).length < 32 ∧ 32 ≤ (⟨false, false, .ok, 32, 0, 0⟩ : RxFrame).length ∧
      running2.Inv := ⟨by decide, by decide, running2_inv⟩

theorem witness_StopMatch :
    (rxIn .dataBitInside base).rx.state.decoding = true ∧ (rxIn .dataBitInside base).lineActive = false ∧
      (rxIn .errorInFrame base).lineActive = false ∧ (active (rxIn .errorInFrame base)).lineActive = true ∧
      (active (rxIn .low base)).lineActive = true ∧ (active (rxIn .failure base)).lineActive = true := by decide

/-- A state in which every wait of the receiver is timed, in a settling window. -/
theorem witness_Timed : State.Timed { rxIn .interFrameIdle base with periodCmp := ⟨true, 19500⟩ } := by
  constructor <;> decide

/-- A transmission waits in the settling window, its match not yet due and then due at the end of its settling time. -/
theorem witness_WaitsOut :
    let s := fun T => at' T { rxIn .interFrameIdle waiting2 with periodCmp := ⟨true, 2450⟩ }
    (0 ≤ ((s 0).periodCmp.count - (s 0).settleEnd).toInt) ∧ (s 0).rx.state = .interFrameIdle ∧
      (s 0).rx.pendingTx = true ∧ (s 0).recentReference ∧ (∃ t, step (s 0) = .next t) ∧
      fetch (presentArrived (s 2450)) = .op .rxPeriodMatch (takeEvent .rxPeriodMatch (presentArrived (s 2450))) :=
  ⟨by decide, rfl, rfl, by unfold State.recentReference; decide, ⟨_, rfl⟩, rfl⟩

/-- Both compares armed where they may be in turn, the stop compare due. -/
theorem witness_Placed :
    let s := { rxIn .dataBitInside base with stopCmp := ⟨true, 0⟩ }
    s.Placed ∧ (∃ t, step s = .next t) ∧
      fetch (presentArrived s) = .op .rxStopbitMatch (takeEvent .rxStopbitMatch (presentArrived s)) ∧
      State.Placed { rxIn .interFrameIdle base with periodCmp := ⟨true, 0⟩ } ∧
      fetch (presentArrived { rxIn .interFrameIdle base with periodCmp := ⟨true, 0⟩ }) =
        .op .rxPeriodMatch
          (takeEvent .rxPeriodMatch (presentArrived { rxIn .interFrameIdle base with periodCmp := ⟨true, 0⟩ })) :=
  ⟨⟨by decide, by decide⟩, ⟨_, rfl⟩, rfl, ⟨by decide, by decide⟩, rfl⟩

theorem witness_ReceiverHears :
    base.rx.state = .idle ∧ FrameKind.forward ≠ .corrupt ∧ (0xAA : Word).toNat < 2 ^ 8 ∧ base.lineActive = false ∧
      (base.params.rxRiseUs : Int) - base.params.rxFallUs ≤ 91 ∧
      (base.params.rxFallUs : Int) - base.params.rxRiseUs ≤ 91 ∧ base.q.items.length < base.params.queueDepth ∧
      (base.tx.encodeFrame .forward 8 0xAA).isSome = true := by decide

/-- The remaining wait at 0, 1, 99, 100, 19500 and 19501 µs (43_scheduler.md R191, R192), in a settling window with a
priority-5 frame armed. -/
theorem witness_Scheduling :
    let s := fun T => at' T { rxIn .interFrameIdle waiting2 with tx := { waiting2.tx with kind := .forward, prio := 5 } }
    ((s 19500).settleEnd - (s 19500).nowUs).toInt = 0 ∧ (s 19499).settled = false ∧
      ((s 19401).settleEnd - (s 19401).nowUs).toInt = 99 ∧ ((s 19400).settleEnd - (s 19400).nowUs).toInt = 100 ∧
      (s 0).settled = false ∧ ((s 4294967295).settleEnd - (s 4294967295).nowUs).toInt = 19501 ∧
      (s 4294967295).settled = true ∧ (s 0).tx.running = false ∧ running2.tx.running = true ∧
      (rxIn .failure base).rx.state ≠ .idle ∧ (rxIn .failure base).rx.state ≠ .interFrameIdle := by decide

theorem witness_CloseOut :
    waiting2.rx.pendingTx = true ∧ waiting2.tx.armed = true ∧ waiting2.tx.rep ≠ 0 ∧ base.rx.pendingTx = false ∧
      running2.rx.pendingTx = false ∧ running2.tx.rep = 0 ∧
      ({ running2 with tx := { running2.tx with rep := 255 } } : State).tx.rep ≠ 0 := by decide

theorem witness_PeriodMatch :
    waiting2.rx.state = .idle ∧ waiting2.rx.pendingTx = true ∧ waiting2.tx.running = false ∧
      ({ waiting2 with tx := { waiting2.tx with running := true } } : State).tx.running = true ∧
      (rxIn .interFrameIdle base).rx.pendingTx = false ∧ (rxIn .low base).rx.state ≠ .idle := by decide

/-- An operation that loads the period compare: the close-out of a settled frame. -/
theorem witness_PeriodCompare :
    let s := at' 2400 (rxIn .dataBitInside base)
    (after .rxStopbitMatch s).periodCmp.armed = true ∧ (after .rxStopbitMatch s).periodCmp ≠ s.periodCmp := by decide

theorem witness_TransmissionStarts :
    waiting2.tx.running = false ∧ (after .rxPeriodMatch waiting2).tx.running = true ∧
      (after .seqExecute building2).tx.running = true ∧
      (after (.send .backToBack 0 8 0 0xA5) (at' 9000 (rxIn .interFrameIdle base))).tx.running = true ∧
      (after .rxStopbitMatch (at' 2450 (rxIn .dataBitInside waiting2))).tx.running = true := by decide

theorem witness_Enqueue :
    base.q.items.length < base.params.queueDepth ∧
      ({ base with params := ⟨0, 0, 0, 0, 0, 0, true⟩ } : State).params.queueDepth ≤ base.q.items.length := by decide

theorem witness_TryReceive :
    base.q.items = [] ∧ (⟨[RxFrame.empty], true⟩ : FrameQueue).items = RxFrame.empty :: [] ∧
      (⟨[RxFrame.empty], true⟩ : FrameQueue).overflow = true ∧ (⟨[RxFrame.empty], false⟩ : FrameQueue).overflow = false := by
  decide

theorem witness_Reset :
    base.env.ext = false ∧ (active base).env.ext = true ∧ 0 < (active base).params.queueDepth := by decide

theorem witness_Frames :
    isCommand .reqStatus ∧ (∃ t, exec (.seqNext 417) building2 = .next t) ∧ (∃ t, exec (.rxEdge 0 true) base = .next t) ∧
      (rxIn .low base).rx.state ≠ .idle ∧ (∃ t, exec .rxStopbitMatch base = .next t) ∧
      (∃ t, exec .rxPeriodMatch base = .next t) ∧ (∃ t, exec .rxQueryMatch base = .next t) ∧
      (∃ t, step base = .next t) :=
  ⟨rfl, ⟨_, rfl⟩, ⟨_, rfl⟩, by decide, ⟨_, rfl⟩, ⟨_, rfl⟩, ⟨_, rfl⟩, ⟨_, rfl⟩⟩

end Sys2Proof.Tests
end

section
/-! What every operation leaves as it was: the parameters, the inputs and the replies given so far. -/

namespace Sys2Proof.Machine

open Sys2Proof

/-- `t` has the parameters, the inputs and the replies of `s`: outside the block nothing differs. -/
@[simp] abbrev State.SameOutside (s t : State) : Prop :=
  t.params = s.params ∧ t.env = s.env ∧ t.replies = s.replies

/-! ### The scheduler -/

@[simp] theorem rxScheduleTransmission_sameOutside (s : State) : s.SameOutside (rxScheduleTransmission s) := by
  obtain ⟨e, ⟨-, h⟩ | ⟨c, h⟩⟩ := rxScheduleTransmission_cases s <;> simp [h]

@[simp] theorem scheduleSettlingTimeout_sameOutside (s : State) : s.SameOutside (scheduleSettlingTimeout s) := by
  obtain ⟨-, h⟩ | ⟨-, h⟩ | ⟨-, -, -, h⟩ := scheduleSettlingTimeout_cases s <;> simp [h]

@[simp] theorem servePending_sameOutside (s : State) : s.SameOutside (servePending s) := by
  unfold servePending; split <;> simp

@[simp] theorem rxPeriodMatch_sameOutside (s : State) : s.SameOutside (rxPeriodMatch s) := by
  unfold rxPeriodMatch
  cases s.rx.state <;> cases s.rx.pendingTx <;> simp

/-! ### The receiver: an edge writes nothing of the transmitter either -/

@[simp] theorem captureBit_keeps (b : Bool) (s : State) :
    (captureBit b s).tx = s.tx ∧ s.SameOutside (captureBit b s) := by
  obtain ⟨-, h⟩ | ⟨-, h⟩ := captureBit_cases b s <;> simp [h]

@[simp] theorem startBitStartEdge_keeps (ec : Int) (s : State) :
    (startBitStartEdge ec s).tx = s.tx ∧ s.SameOutside (startBitStartEdge ec s) := by
  unfold startBitStartEdge; split <;> simp

@[simp] theorem insideEdge_keeps (ec : Int) (s : State) :
    (insideEdge ec s).tx = s.tx ∧ s.SameOutside (insideEdge ec s) := by
  unfold insideEdge
  split
  · simp
  · split <;> simp

@[simp] theorem dataBitStartEdge_keeps (ec : Int) (s : State) :
    (dataBitStartEdge ec s).tx = s.tx ∧ s.SameOutside (dataBitStartEdge ec s) := by
  unfold dataBitStartEdge; split <;> simp

@[simp] theorem rxEdge_keeps (tCap : Word) (level : Level) (s : State) :
    (rxEdge tCap level s).tx = s.tx ∧ s.SameOutside (rxEdge tCap level s) := by
  unfold rxEdge
  cases s.rx.state <;> cases level <;> simp

@[simp] theorem rxStopbitMatch_sameOutside (s : State) : s.SameOutside (rxStopbitMatch s) := by
  unfold rxStopbitMatch
  cases s.rx.state <;> cases s.lineActive <;> simp [completeFrame, closeOut]

@[simp] theorem rxQueryMatch_sameOutside (s : State) : s.SameOutside (rxQueryMatch s) := by
  unfold rxQueryMatch
  cases s.rx.state <;> simp

@[simp] theorem reqStatus_sameOutside (s : State) : s.SameOutside (reqStatus s) := by
  unfold reqStatus; split <;> simp

/-! ### The transmitter -/

@[simp] theorem armAndSchedule_sameOutside (k : FrameKind) (prio : Fin 8) (rep : BitVec 8) (t : Tx) (s : State) :
    s.SameOutside (armAndSchedule k prio rep t s) := by simp [armAndSchedule]

@[simp] theorem send_sameOutside (kind : KindField) (prio : BitVec 4) (length rep : BitVec 8) (data : Word)
    (s : State) : s.SameOutside (send kind prio length rep data s) := by
  unfold send
  split
  · simp
  · split
    · simp
    · split <;> simp

@[simp] theorem seqStart_sameOutside (s : State) : s.SameOutside (seqStart s) := by
  unfold seqStart; split <;> simp

@[simp] theorem seqNext_sameOutside (periodUs : Word) (s : State) : s.SameOutside (seqNext periodUs s) := by
  unfold seqNext
  split
  · simp
  · split
    · simp
    · cases s.tx.pushPhase periodUs <;> simp

@[simp] theorem seqExecute_sameOutside (s : State) : s.SameOutside (seqExecute s) := by
  unfold seqExecute; split <;> simp

@[simp] theorem armQuery_sameOutside (s : State) : s.SameOutside (armQuery s) := by
  unfold armQuery; cases s.tx.kind <;> simp

@[simp] theorem txMatch_sameOutside (s : State) : s.SameOutside (txMatch s) := by
  unfold txMatch
  split
  · split <;> simp [nextPhase, exhaust]
  · simp

/-! ### RESET and the receive queue -/

@[simp] theorem reset_sameOutside (s : State) : s.SameOutside (reset s) := by
  unfold reset
  dsimp only
  split <;> simp

/-- `TRY_RECEIVE` gives one reply (R214; 30_encoding.md R67). -/
theorem tryReceive_keeps (s : State) :
    (tryReceive s).params = s.params ∧ (tryReceive s).env = s.env ∧
      ∃ r, (tryReceive s).replies = s.replies ++ [r] := by
  unfold tryReceive
  cases s.q.items <;> simp

/-! ### Every operation -/

/-- No operation writes the parameters or the inputs, and none takes a reply back. -/
theorem exec_keeps_outside {i : Instr} {s t : State} (h : exec i s = .next t) :
    t.params = s.params ∧ t.env = s.env ∧ s.replies <+: t.replies := by
  have same {u : State} (hu : s.SameOutside u) :
      u.params = s.params ∧ u.env = s.env ∧ s.replies <+: u.replies := by
    obtain ⟨hp, he, hr⟩ := hu
    exact ⟨hp, he, hr ▸ List.prefix_rfl⟩
  cases i <;> cases h
  case tryReceive =>
    obtain ⟨hp, he, r, hr⟩ := tryReceive_keeps s
    exact ⟨hp, he, hr ▸ List.prefix_append ..⟩
  case isTxIdle => exact ⟨rfl, rfl, List.prefix_append ..⟩
  all_goals exact same (by simp)

/-- Settles O13: the frame of `exec`, and the one step that runs no operation. -/
theorem operationsKeepParametersAndInputs : Obligations.OperationsKeepParametersAndInputs := by
  refine ⟨fun i s t h => exec_keeps_outside h, fun s t hq h => ?_⟩
  obtain ⟨i, u, v, hf, -⟩ | ⟨u, hf, -⟩ | ⟨i, hf, -⟩ | ⟨-, rfl⟩ := step_cases h
  case inr.inr.inr => rfl
  all_goals cases hq.symm.trans hf

/-! ### The bus level and the consequent edge -/

/-- The bus is active exactly if another device drives it, or the block does and hears itself (decision D46). -/
theorem lineActive_iff (s : State) :
    s.lineActive = true ↔ s.env.ext = true ∨ (s.tx.line = true ∧ s.params.loopback = true) := by
  simp [State.lineActive]

/-- Under the same parameters and inputs, the bus level differs exactly by a `tx_line` that the receiver can hear. -/
theorem lineActive_ne_iff {s t : State} (hp : t.params = s.params) (he : t.env = s.env) :
    t.lineActive ≠ s.lineActive ↔ t.tx.line ≠ s.tx.line ∧ s.params.loopback = true ∧ s.env.ext = false := by
  unfold State.lineActive
  rw [hp, he]
  cases s.env.ext <;> cases s.params.loopback <;> simp

theorem edgeDue_iff (s : State) : s.edgeDue = true ↔ s.lineActive ≠ s.env.seen := by simp [State.edgeDue]

/-- An operation that answers a next state is followed by what `afterOp` adds. -/
theorem runOp_of_exec {i : Instr} {s t : State} (h : exec i s = .next t) : runOp i s = .next (afterOp i s t) := by
  simp [runOp, h]

/-- Settles O10, by the two ways an operation other than `RESET` can end (`afterOp_cases`). -/
theorem consequentEdgeFollowsItsOperation : Obligations.ConsequentEdgeFollowsItsOperation := by
  refine ⟨lineActive_iff, fun s t i hi h => ?_⟩
  obtain ⟨hp, he, -⟩ := exec_keeps_outside h
  rw [runOp_of_exec h]
  refine ⟨lineActive_ne_iff hp he, fun hl hs => ?_, fun hq => ?_⟩
  · obtain ⟨hr, -⟩ | ⟨-, -, -, ha⟩ | ⟨-, hq, -⟩ := afterOp_cases i s t
    · exact absurd hr hi
    · exact ⟨_, rfl, congrArg _ ha, by simp [State.lineActive]⟩
    · rw [← Bool.not_eq_true, edgeDue_iff] at hq; tauto
  · obtain ⟨hr, -⟩ | ⟨-, hl, hs, -⟩ | ⟨-, -, ha⟩ := afterOp_cases i s t
    · exact absurd hr hi
    · rw [edgeDue_iff] at hs; tauto
    · rw [ha]

end Sys2Proof.Machine
end

section
/-! The instant and the time to the next one: what is presented, when nothing is left, and how long time passes. -/

namespace Sys2Proof.Machine

open Sys2Proof

/-! ### What is presented -/

/-- The events due after presenting differ from those before at most in the edge of a bus change. -/
theorem presentArrived_dueVector_matches (s : State) :
    (presentArrived s).dueVector &&& 0b011110 = s.dueVector &&& 0b011110 := by
  have drop_edge : ∀ e e' a b c d : Bool,
      (bitAt e 0 ||| bitAt a 1 ||| bitAt b 2 ||| bitAt c 3 ||| bitAt d 4) &&& 0b011110 =
        (bitAt e' 0 ||| bitAt a 1 ||| bitAt b 2 ||| bitAt c 3 ||| bitAt d 4) &&& 0b011110 := by decide
  exact drop_edge ..

/-- Entries that change nothing of the bus leave its level. -/
theorem foldl_bus_of_none {is : List Instant} (l : Level) (h : ∀ x ∈ is, x.bus = none) :
    is.foldl (fun l i => i.bus.getD l) l = l := by
  induction is with
  | nil => rfl
  | cons i is ih =>
    rw [List.foldl_cons, h i (by simp)]
    exact ih fun x hx => h x (by simp [hx])

/-- The last change of the bus counts. -/
theorem foldl_bus_of_last {pre post : List Instant} {i : Instant} {l : Level} (l₀ : Level) (hi : i.bus = some l)
    (hpost : ∀ x ∈ post, x.bus = none) :
    (pre ++ i :: post).foldl (fun l i => i.bus.getD l) l₀ = l := by
  rw [List.foldl_append, List.foldl_cons, hi]
  exact foldl_bus_of_none l hpost

/-! ### When nothing is left -/

/-- An event vector selects no operation exactly if it is empty (30_encoding.md R71). -/
theorem decodeEvt_error_iff (e : EventInput) : (∃ d, decodeEvt e = .error d) ↔ e.vec = 0 := by
  have no_bit : ∀ v : BitVec 6, v = 0 ↔ v.getLsbD 5 = false ∧ v.getLsbD 4 = false ∧ v.getLsbD 0 = false ∧
      v.getLsbD 1 = false ∧ v.getLsbD 2 = false ∧ v.getLsbD 3 = false := by decide
  rw [no_bit]
  unfold decodeEvt
  split_ifs <;> simp_all

theorem vec_ne_zero_of_decodeEvt {e : EventInput} {i : Instr} (h : decodeEvt e = .ok i) : e.vec ≠ 0 := by
  intro hv
  obtain ⟨d, hd⟩ := (decodeEvt_error_iff e).mpr hv
  simp [hd] at h

theorem eventInput_vec (s : State) : s.eventInput.vec = presentedVec s.env.presented ||| s.dueVector := by
  unfold State.eventInput; split <;> rfl

theorem presentedVec_eq_zero (es : List EventInput) : presentedVec es = 0 ↔ ∀ e ∈ es, e.vec = 0 := by
  simpa only [BitVec.and_allOnes] using presentedVec_and_eq_zero es (BitVec.allOnes 6)

theorem fetchEvent_ne_quiet (i : Instr) (s : State) : fetchEvent i s ≠ .quiet := by
  obtain ⟨-, h⟩ | ⟨-, -, h⟩ | ⟨-, -, h⟩ := fetchEvent_cases i s <;> simp [h]

theorem fetchCommand_ne_quiet (w : BitVec 64) (rest : List (BitVec 64)) (s : State) :
    fetchCommand w rest s ≠ .quiet := by
  obtain ⟨i, -, h⟩ | ⟨-, h⟩ := fetchCommand_cases w rest s <;> simp [h]

/-- Nothing is left exactly when there is no event and no command. -/
theorem fetch_quiet_iff (s : State) : fetch s = .quiet ↔ s.eventInput.vec = 0 ∧ s.env.cmds = [] := by
  obtain ⟨i, hd, hf⟩ | ⟨-, ⟨w, rest, hc, hf⟩ | ⟨hc, ⟨i, hd, hf⟩ | ⟨hd, hf⟩⟩⟩ := fetch_cases s
  · have hv : s.eventInput.vec ≠ 0 := fun hv => vec_ne_zero_of_decodeEvt hd (by simp [maskInput, hv])
    exact iff_of_false (hf ▸ fetchEvent_ne_quiet i s) fun h => hv h.1
  · simp [hf, fetchCommand_ne_quiet, hc]
  · exact iff_of_false (hf ▸ fetchEvent_ne_quiet i s) fun h => vec_ne_zero_of_decodeEvt hd h.1
  · simp [hf, hc, (decodeEvt_error_iff _).mp hd]

/-- Nothing is left exactly when no event is presented or due and no command is left (R241). -/
theorem fetch_quiet_iff_nothing_left (s : State) :
    fetch s = .quiet ↔ (∀ e ∈ s.env.presented, e.vec = 0) ∧ s.dueVector = 0 ∧ s.env.cmds = [] := by
  rw [fetch_quiet_iff, eventInput_vec, ← and_assoc, ← presentedVec_eq_zero]
  exact and_congr_left' BitVec.or_eq_zero_iff

/-! ### The four compare channels -/

/-- The transmit compare as a compare channel: armed while running, at the loaded entry's time (41_transmitter.md
R118). -/
def State.txCompare (s : State) : Compare := ⟨s.tx.running, s.tx.t0 + s.tx.entry s.tx.index⟩

theorem txDue_eq (s : State) : s.txDue = s.txCompare.due s.nowUs := by
  have h : s.nowUs - s.tx.t0 = s.tx.entry s.tx.index ↔ s.tx.t0 + s.tx.entry s.tx.index = s.nowUs := by
    rw [sub_eq_iff_eq_add', eq_comm]
  exact congrArg (s.tx.running && ·) (decide_eq_decide.mpr h)

theorem txWait_eq (s : State) : s.txWait = s.txCompare.wait s.nowUs := rfl

/-- The four channels that match by themselves (10_state.md R35). -/
def State.channels (s : State) : List Compare := [s.stopCmp, s.periodCmp, s.queryCmp, s.txCompare]

/-- No event is due exactly when there is no edge to hand over and no channel is due. -/
theorem dueVector_eq_zero_iff (s : State) :
    s.dueVector = 0 ↔ s.edgeDue = false ∧ ∀ c ∈ s.channels, c.due s.nowUs = false := by
  have no_bit : ∀ e a b c d : Bool, bitAt e 0 ||| bitAt a 1 ||| bitAt b 2 ||| bitAt c 3 ||| bitAt d 4 = 0 ↔
      e = false ∧ a = false ∧ b = false ∧ c = false ∧ d = false := by decide
  unfold State.dueVector
  rw [no_bit, txDue_eq]
  simp [State.channels]

/-- A wait is a channel's or a timeline entry's. -/
theorem mem_waits {s : State} {w : Nat} :
    w ∈ s.waits ↔ (∃ c ∈ s.channels, w ∈ c.wait s.nowUs) ∨ ∃ i ∈ s.env.timeline, i.time - s.env.now = w := by
  simp [State.waits, State.channels, State.timelineWait, txWait_eq, or_assoc]

/-- A channel is due when its wait is over. -/
theorem Compare.due_of_mem_wait {c : Compare} {n w : Nat} (h : w ∈ c.wait (BitVec.ofNat 32 n)) :
    c.due (BitVec.ofNat 32 (n + w)) = true := by
  unfold Compare.wait at h
  split at h
  · next ha =>
    obtain rfl := List.mem_singleton.mp h
    have hc : c.count = BitVec.ofNat 32 (n + (c.count - BitVec.ofNat 32 n).toNat) := by
      rw [BitVec.ofNat_add, BitVec.ofNat_toNat, BitVec.setWidth_eq, add_sub_cancel]
    rw [Compare.due, ha, decide_eq_true hc, Bool.and_self]
  · cases h

/-- A channel is not due before its wait is over. -/
theorem Compare.wait_le_of_due {c : Compare} {n k : Nat} (h : c.due (BitVec.ofNat 32 (n + k)) = true) :
    ∃ w ∈ c.wait (BitVec.ofNat 32 n), w ≤ k := by
  obtain ⟨ha, hc⟩ : c.armed = true ∧ c.count = BitVec.ofNat 32 (n + k) := by simpa [Compare.due] using h
  refine ⟨_, by rw [Compare.wait, if_pos ha]; exact List.mem_singleton_self _, ?_⟩
  rw [hc, BitVec.ofNat_add, add_sub_cancel_left, BitVec.toNat_ofNat]
  exact Nat.mod_le ..

/-! ### The earliest event -/

/-- `k` µs from now a channel is due, or an entry of the timeline has come. -/
def State.comesAfter (s : State) (k : Nat) : Prop :=
  (∃ c ∈ s.channels, c.due (BitVec.ofNat 32 (s.env.now + k)) = true) ∨ ∃ i ∈ s.env.timeline, i.time ≤ s.env.now + k

theorem comesAfter_of_mem_waits {s : State} {w : Nat} (h : w ∈ s.waits) : s.comesAfter w := by
  obtain ⟨c, hc, hw⟩ | ⟨i, hi, rfl⟩ := mem_waits.mp h
  · exact .inl ⟨c, hc, Compare.due_of_mem_wait hw⟩
  · exact .inr ⟨i, hi, by omega⟩

theorem exists_wait_le_of_comesAfter {s : State} {k : Nat} (h : s.comesAfter k) : ∃ w ∈ s.waits, w ≤ k := by
  obtain ⟨c, hc, hd⟩ | ⟨i, hi, ht⟩ := h
  · obtain ⟨w, hw, hk⟩ := Compare.wait_le_of_due hd
    exact ⟨w, mem_waits.mpr (.inl ⟨c, hc, hw⟩), hk⟩
  · exact ⟨_, mem_waits.mpr (.inr ⟨i, hi, rfl⟩), by omega⟩

/-- With no edge to hand over, nothing comes after `k` exactly when no event is due then and the timeline lies later. -/
theorem not_comesAfter_iff {s : State} (he : s.edgeDue = false) (k : Nat) :
    ¬s.comesAfter k ↔ (s.later k).dueVector = 0 ∧ ∀ i ∈ s.env.timeline, s.env.now + k < i.time := by
  have hl : (s.later k).edgeDue = false := he
  have hc : (s.later k).channels = s.channels := rfl
  have hn : (s.later k).nowUs = BitVec.ofNat 32 (s.env.now + k) := rfl
  rw [dueVector_eq_zero_iff, hl, hc, hn]
  simp [State.comesAfter]

/-- The time that passes is the least of the waits. -/
theorem min?_waits {s : State} (h : s.waits ≠ []) : s.waits.min? = some s.nextWait := by
  unfold State.nextWait
  split
  · next hw => exact absurd hw h
  · next w ws hw => rw [hw, List.min?_cons']

theorem nextWait_mem {s : State} (h : s.waits ≠ []) : s.nextWait ∈ s.waits :=
  List.min?_mem (min?_waits h)

theorem nextWait_le {s : State} {w : Nat} (h : w ∈ s.waits) : s.nextWait ≤ w :=
  (List.min?_eq_some_iff.mp (min?_waits (List.ne_nil_of_mem h))).2 w h

theorem nextWait_of_nil {s : State} (h : s.waits = []) : s.nextWait = 1 := by
  simp [State.nextWait, h]

/-- Nothing comes before the time that passes is over. -/
theorem not_comesAfter_of_lt {s : State} {k : Nat} (h : k < s.nextWait) : ¬s.comesAfter k := by
  intro hk
  obtain ⟨w, hw, hwk⟩ := exists_wait_le_of_comesAfter hk
  have := nextWait_le hw
  omega

/-- When the time that passes is over something comes, if anything ever will by itself. -/
theorem comesAfter_nextWait {s : State} (h : s.waits ≠ []) : s.comesAfter s.nextWait :=
  comesAfter_of_mem_waits (nextWait_mem h)

/-- Time passes when nothing comes now. -/
theorem nextWait_pos {s : State} (h : ¬s.comesAfter 0) : 0 < s.nextWait := by
  by_cases hw : s.waits = []
  · rw [nextWait_of_nil hw]; exact Nat.one_pos
  · exact Nat.pos_of_ne_zero fun h0 => h (h0 ▸ comesAfter_nextWait hw)

/-- Settles O12: presenting by its definition, and time passes by the least wait. -/
theorem timePassesToTheNextEvent : Obligations.TimePassesToTheNextEvent := by
  intro s p come
  refine ⟨⟨BitVec.toNat_ofNat .., BitVec.toNat_ofNat ..⟩, ?_, ?_, foldl_bus_of_none _,
    fetch_quiet_iff_nothing_left p, fun hq => ?_⟩
  · rw [presentArrived_dueVector_matches]; rfl
  · intro pre i post l hc hi hpost
    rw [presentArrived_env_ext, show s.env.timeline.filter _ = _ from hc]
    exact foldl_bus_of_last _ hi hpost
  obtain ⟨-, hd, -⟩ := (fetch_quiet_iff_nothing_left p).mp hq
  have he : p.edgeDue = false := ((dueVector_eq_zero_iff p).mp hd).1
  have hnow : ¬p.comesAfter 0 :=
    (not_comesAfter_iff he 0).mpr ⟨hd, fun i hi => (mem_presentArrived_timeline.mp hi).2⟩
  refine ⟨by rw [step, hq]; rfl, nextWait_pos hnow, fun k _ hk => ?_, fun hw => ?_⟩
  · exact (not_comesAfter_iff he k).mp (not_comesAfter_of_lt hk)
  · have hend := (not_comesAfter_iff he p.nextWait).not.mp (not_not.mpr (comesAfter_nextWait hw))
    simpa [imp_iff_not_or] using hend

end Sys2Proof.Machine
end

section
/-! The invariants of 10_state.md R38, taken apart by the component of the state they speak of, and what each shared
operation does to them. -/

namespace Sys2Proof.Machine

open Sys2Proof

/-! ### The parts of the invariant -/

/-- The pulse table is increasing and ends at the running sum (10_state.md R17). -/
structure Tx.Ordered (t : Tx) : Prop where
  increasing : ∀ i j : Fin 67, i < j → j.val < t.n.val → (t.entry i).toNat < (t.entry j).toNat
  countNow_last : ∀ i : Fin 67, i.val + 1 = t.n.val → t.countNow = t.entry i

/-- The part of the invariant about the transmitter; `pending` is `rx.pending_tx`. -/
structure Tx.Sound (t : Tx) (pending : Bool) : Prop where
  ordered : t.Ordered
  armed_nonempty : t.armed = true → 1 ≤ t.n.val
  running_armed : t.running = true → t.armed = true
  building_unarmed : t.building = true → t.armed = false
  pending_armed : pending = true → t.armed = true
  running_index : t.running = true → t.index.val < t.n.val
  line_running : t.line = true → t.running = true
  armed_settles : t.armed = true → (settleIndex t.kind t.prio).isSome = true

/-- A frame in progress: of a legal size, with status `Ok`, and not yet marked `twice`. -/
structure RxFrame.InProgress (f : RxFrame) : Prop where
  fits : f.fits
  status : f.status = .ok
  twice : f.twice = false

/-- The part of the invariant about the receiver. -/
structure Rx.Sound (r : Rx) : Prop where
  inProgress : r.frame.InProgress
  empty : r.state.frameless = true → r.frame = RxFrame.empty

/-- The part of the invariant about the frame queue. -/
structure FrameQueue.Sound (q : FrameQueue) (depth : Nat) : Prop where
  bound : q.items.length ≤ depth
  shaped : ∀ f ∈ q.items, f.shaped

/-- The invariant is the conjunction of its parts. -/
theorem inv_iff (s : State) :
    s.Inv ↔ s.tx.Sound s.rx.pendingTx ∧ s.rx.Sound ∧ s.q.Sound s.params.queueDepth := by
  constructor
  · intro h
    exact ⟨⟨⟨h.table_increasing, h.countNow_last⟩, h.armed_nonempty, h.running_armed, h.building_unarmed,
      h.pending_armed, h.running_index, h.line_running, h.armed_settles⟩,
      ⟨⟨⟨h.frame_length, h.frame_data⟩, h.frame_status, h.frame_twice⟩, h.frame_empty⟩,
      ⟨h.queue_bound, h.queue_shaped⟩⟩
  · rintro ⟨ht, ⟨⟨⟨hl, hd⟩, hs, hw⟩, he⟩, hq⟩
    exact ⟨ht.armed_nonempty, ht.ordered.increasing, ht.ordered.countNow_last, ht.running_armed,
      ht.building_unarmed, ht.pending_armed, ht.running_index, hl, hd, hs, hw, he, hq.bound, ht.line_running,
      hq.shaped, ht.armed_settles⟩

theorem State.Inv.tx {s : State} (h : s.Inv) : s.tx.Sound s.rx.pendingTx := ((inv_iff s).mp h).1

theorem State.Inv.rx {s : State} (h : s.Inv) : s.rx.Sound := ((inv_iff s).mp h).2.1

theorem State.Inv.q {s : State} (h : s.Inv) : s.q.Sound s.params.queueDepth := ((inv_iff s).mp h).2.2

theorem State.Inv.of_parts {s : State} (ht : s.tx.Sound s.rx.pendingTx) (hr : s.rx.Sound)
    (hq : s.q.Sound s.params.queueDepth) : s.Inv := (inv_iff s).mpr ⟨ht, hr, hq⟩

/-- The invariant reads nothing of the compares, the inputs and the replies. -/
theorem State.Inv.congr {s t : State} (h : s.Inv) (htx : t.tx = s.tx) (hrx : t.rx = s.rx) (hq : t.q = s.q)
    (hp : t.params = s.params) : t.Inv := by
  rw [inv_iff, htx, hrx, hq, hp]
  exact (inv_iff s).mp h

/-! ### The frame queue (44_frame_queue.md) -/

/-- A status frame has the shape of its status, whichever it is (R212, R213). -/
theorem statusFrame_shaped (st : Status) (ms : Word) : (statusFrame st ms).shaped := by
  cases st <;> simp [RxFrame.shaped, statusFrame, RxFrame.bare, RxFrame.fits]

theorem State.Inv.enqueue {s : State} (h : s.Inv) {f : RxFrame} (hf : f.shaped) : (enqueue f s).Inv := by
  refine .of_parts h.tx h.rx ⟨enqueue_bound h.q.bound, fun g hg => ?_⟩
  obtain hg | rfl := mem_enqueue hg
  · exact h.q.shaped g hg
  · exact hf

theorem State.Inv.report {s : State} (h : s.Inv) (st : Status) : (report st s).Inv :=
  h.enqueue (statusFrame_shaped st s.nowMs)

/-- What is left after a pop, with the marker of dropped frames, is not longer than what was there (R215). -/
theorem queueAfterPop_sound {s : State} {f : RxFrame} {rest : List RxFrame} (hs : s.q.items = f :: rest)
    (h : s.q.Sound s.params.queueDepth) : (queueAfterPop rest s).Sound s.params.queueDepth := by
  obtain ⟨hb, hsh⟩ := h
  rw [hs, List.length_cons] at hb
  rw [hs, List.forall_mem_cons] at hsh
  unfold queueAfterPop
  split
  · refine ⟨by simpa using hb, fun g hg => ?_⟩
    obtain hg | hg := List.mem_append.mp hg
    · exact hsh.2 g hg
    · rw [List.mem_singleton.mp hg]; exact statusFrame_shaped _ _
  · exact ⟨by simpa using Nat.le_of_lt hb, hsh.2⟩

theorem State.Inv.tryReceive {s : State} (h : s.Inv) : (tryReceive s).Inv := by
  unfold Machine.tryReceive
  split
  · exact h.congr rfl rfl rfl rfl
  · next hq => exact .of_parts h.tx h.rx (queueAfterPop_sound hq h.q)

/-! ### The scheduler (43_scheduler.md) -/

/-- An armed table that the receiver's state allows is started at its first entry (R116). -/
theorem State.Inv.txStart {s : State} (h : s.Inv) (ha : s.tx.armed = true) : (txStart s).Inv := by
  refine .of_parts ?_ ⟨h.rx.inProgress, h.rx.empty⟩ h.q
  exact
    { ordered := ⟨h.table_increasing, h.countNow_last⟩
      armed_nonempty := h.armed_nonempty
      running_armed := fun _ => ha
      building_unarmed := h.building_unarmed
      pending_armed := nofun
      running_index := fun _ => h.armed_nonempty ha
      line_running := fun _ => rfl
      armed_settles := h.armed_settles }

/-- An armed table may wait. -/
theorem Tx.Sound.pending {t : Tx} {p : Bool} (h : t.Sound p) (ha : t.armed = true) : t.Sound true :=
  { h with pending_armed := fun _ => ha }

theorem State.Inv.rxScheduleTransmission {s : State} (h : s.Inv) (ha : s.tx.armed = true) :
    (rxScheduleTransmission s).Inv := by
  obtain ⟨e, ⟨-, hs⟩ | ⟨c, hs⟩⟩ := rxScheduleTransmission_cases s
  · have he : State.Inv { s with rx.endIfi := e } := .of_parts h.tx ⟨h.rx.inProgress, h.rx.empty⟩ h.q
    exact hs ▸ he.txStart ha
  · exact hs ▸ .of_parts (h.tx.pending ha) ⟨h.rx.inProgress, h.rx.empty⟩ h.q

theorem State.Inv.openWindow {s : State} (h : s.Inv) (hf : s.rx.frame = RxFrame.empty) : (openWindow s).Inv :=
  .of_parts h.tx ⟨h.rx.inProgress, fun _ => hf⟩ h.q

/-- Closing a cycle with no frame left in it: what waits, or a repeat, is scheduled only if armed (R190, R197). -/
theorem State.Inv.scheduleSettlingTimeout {s : State} (h : s.Inv) (hf : s.rx.frame = RxFrame.empty) :
    (scheduleSettlingTimeout s).Inv := by
  have hw := h.openWindow hf
  obtain ⟨-, hs⟩ | ⟨hp, hs⟩ | ⟨-, ha, -, hs⟩ := scheduleSettlingTimeout_cases s <;> rw [hs]
  · exact hw
  · exact hw.rxScheduleTransmission (h.pending_armed hp)
  · have hr : State.Inv { Machine.openWindow s with tx := { s.tx with rep := s.tx.rep - 1 } } :=
      .of_parts { hw.tx with ordered := ⟨h.table_increasing, h.countNow_last⟩ } hw.rx hw.q
    exact hr.rxScheduleTransmission ha

theorem State.Inv.servePending {s : State} (h : s.Inv) (ha : s.tx.armed = true)
    (hs : s.rx.state.frameless = true) : (servePending s).Inv := by
  unfold Machine.servePending
  split
  · exact h.congr rfl rfl rfl rfl
  · have hst := h.txStart ha
    exact .of_parts hst.tx ⟨hst.rx.inProgress, fun _ => h.frame_empty hs⟩ hst.q

theorem State.Inv.rxPeriodMatch {s : State} (h : s.Inv) : (rxPeriodMatch s).Inv := by
  have hd : State.Inv { s with periodCmp.armed := false } := h.congr rfl rfl rfl rfl
  unfold Machine.rxPeriodMatch
  split
  case h_1 hs =>
    split
    · next hp => exact hd.servePending (h.pending_armed hp) (by simp [hs, RxState.frameless])
    · exact hd
  case h_2 hs =>
    have hfl : s.rx.state.frameless = true := by simp [hs, RxState.frameless]
    split
    · next hp => exact hd.servePending (h.pending_armed hp) hfl
    · exact .of_parts h.tx ⟨h.rx.inProgress, fun _ => h.frame_empty hfl⟩ h.q
  all_goals exact hd

/-! ### The receiver (42_receiver.md) -/

/-- With no frame in progress the receiver may be in any state. -/
theorem Rx.sound_of_empty {r : Rx} (h : r.frame = RxFrame.empty) : r.Sound :=
  ⟨by rw [h]; exact ⟨⟨by simp, by simp⟩, rfl, rfl⟩, fun _ => h⟩

theorem State.Inv.acceptEdge {s : State} (h : s.Inv) (c : Word) : (acceptEdge c s).Inv :=
  .of_parts h.tx ⟨h.rx.inProgress, h.rx.empty⟩ h.q

theorem State.Inv.startEdge {s : State} (h : s.Inv) : (startEdge s).Inv :=
  .of_parts h.tx ⟨⟨⟨by simp, by simp⟩, rfl, rfl⟩, nofun⟩ h.q

/-- The two statuses of a receive error (R145 to R149). -/
def Status.isReceiveError (st : Status) : Prop := st = .errorReceiveStartTiming ∨ st = .errorReceiveDataTiming

/-- An error queues the frame in progress with its status, not marked `twice` (R150). -/
theorem State.Inv.rxError {s : State} (h : s.Inv) {st : Status} (hst : st.isReceiveError) : (rxError st s).Inv := by
  have hf : RxFrame.shaped { s.rx.frame with status := st } := by
    obtain rfl | rfl := hst <;> exact ⟨h.rx.inProgress.fits, h.frame_twice⟩
  have he := h.enqueue hf
  exact .of_parts he.tx (Rx.sound_of_empty rfl) he.q

/-- A captured bit fits, being the lowest of one more (R149). -/
theorem fits_capture {f : RxFrame} (hl : f.length < 32) (hd : f.data.toNat < 2 ^ f.length) (b : Bool) :
    RxFrame.fits { f with data := (f.data <<< 1) ||| (BitVec.ofBool b).setWidth 32, length := f.length + 1 } := by
  have hp : 2 ^ f.length ≤ 2 ^ 31 := Nat.pow_le_pow_right (by decide) (by omega)
  have hb : b.toNat ≤ 1 := Bool.toNat_le b
  refine ⟨hl, ?_⟩
  dsimp only
  rw [captured_toNat _ _ (by omega), Nat.pow_succ]
  omega

theorem State.Inv.captureBit {s : State} (h : s.Inv) (b : Bool) : (captureBit b s).Inv := by
  obtain ⟨-, hc⟩ | ⟨hl, hc⟩ := captureBit_cases b s <;> rw [hc]
  · exact h.rxError (.inr rfl)
  · exact .of_parts h.tx ⟨⟨fits_capture hl h.frame_data b, h.frame_status, h.frame_twice⟩, nofun⟩ h.q

/-- In a decode state the frame in progress stays as it is. -/
theorem State.Inv.decoding {s : State} (h : s.Inv) {st : RxState} (hst : st.frameless = false) :
    State.Inv { s with rx.state := st } :=
  .of_parts h.tx ⟨h.rx.inProgress, fun hf => absurd hf (by simp [hst])⟩ h.q

theorem State.Inv.startBitStartEdge {s : State} (h : s.Inv) (ec : Int) : (startBitStartEdge ec s).Inv := by
  unfold Machine.startBitStartEdge
  split
  · exact h.decoding rfl
  · exact h.rxError (.inl rfl)

theorem State.Inv.insideEdge {s : State} (h : s.Inv) (ec : Int) : (insideEdge ec s).Inv := by
  have hb : State.Inv { s with rx.lastBit := !s.rx.lastBit } := .of_parts h.tx ⟨h.rx.inProgress, h.rx.empty⟩ h.q
  unfold Machine.insideEdge
  split
  · exact h.decoding rfl
  · split
    · exact hb.captureBit _
    · exact h.rxError (.inr rfl)

theorem State.Inv.dataBitStartEdge {s : State} (h : s.Inv) (ec : Int) : (dataBitStartEdge ec s).Inv := by
  unfold Machine.dataBitStartEdge
  split
  · exact h.captureBit _
  · exact h.rxError (.inr rfl)

/-- A report in a state without a frame, and a new state (R152, R164). -/
theorem State.Inv.report_state {s : State} (h : s.Inv) (hs : s.rx.state.frameless = true) (st : Status)
    (r : RxState) : State.Inv { Machine.report st s with rx.state := r } :=
  .of_parts h.tx (Rx.sound_of_empty (h.frame_empty hs)) (h.report st).q

theorem State.Inv.rxEdge {s : State} (h : s.Inv) (c : Word) (level : Level) : (rxEdge c level s).Inv := by
  have ha := h.acceptEdge c
  unfold Machine.rxEdge
  dsimp only
  split
  case h_1 | h_2 =>
    split
    · exact ha.startEdge
    · exact h
  case h_3 => exact ha.startBitStartEdge _
  case h_4 | h_6 => exact ha.insideEdge _
  case h_5 => exact ha.dataBitStartEdge _
  case h_7 => exact ha
  case h_8 hs | h_9 hs =>
    split
    · exact h
    · exact ha.report_state (by simp [hs, RxState.frameless]) _ _

theorem State.Inv.enterLow {s : State} (h : s.Inv) : (enterLow s).Inv := .of_parts h.tx (Rx.sound_of_empty rfl) h.q

theorem State.Inv.closeOut {s : State} (h : s.Inv) : (closeOut s).Inv := by
  have he : State.Inv { s with rx.frame := RxFrame.empty } := .of_parts h.tx (Rx.sound_of_empty rfl) h.q
  exact he.scheduleSettlingTimeout rfl

/-- A completed frame has the shape of a received frame (R161, R213). -/
theorem completedFrame_shaped {s : State} (h : s.Inv) : (completedFrame s).shaped := by
  unfold RxFrame.shaped completedFrame
  dsimp only
  rw [h.frame_status]
  exact h.rx.inProgress.fits

theorem State.Inv.completeFrame {s : State} (h : s.Inv) : (completeFrame s).Inv := by
  have hq := (h.enqueue (completedFrame_shaped h)).q
  exact scheduleSettlingTimeout (.of_parts h.tx (Rx.sound_of_empty rfl) hq) rfl

theorem State.Inv.rxStopbitMatch {s : State} (h : s.Inv) : (rxStopbitMatch s).Inv := by
  have hd : State.Inv { s with stopCmp.armed := false } := h.congr rfl rfl rfl rfl
  unfold Machine.rxStopbitMatch
  dsimp only
  split <;> split
  case h_6.isTrue hs _ => exact hd.report_state (by simp [hs, RxState.frameless]) _ _
  case h_7.isTrue | h_8.isFalse | h_9.isFalse => exact hd
  case h_1.isFalse | h_2.isFalse | h_3.isFalse | h_4.isFalse => exact hd.completeFrame
  case h_5.isFalse | h_6.isFalse | h_7.isFalse => exact hd.closeOut
  all_goals exact hd.enterLow

theorem State.Inv.rxQueryMatch {s : State} (h : s.Inv) : (rxQueryMatch s).Inv := by
  have hd : State.Inv { s with queryCmp.armed := false } := h.congr rfl rfl rfl rfl
  unfold Machine.rxQueryMatch
  split
  case h_1 | h_2 => exact hd.report _
  all_goals exact hd

theorem State.Inv.reqStatus {s : State} (h : s.Inv) : (reqStatus s).Inv := by
  unfold Machine.reqStatus
  split
  · exact h.report _
  · exact h

end Sys2Proof.Machine
end

section
/-! Building a pulse table keeps it increasing, and every operation and every step keeps the invariants. -/

namespace Sys2Proof.Machine

open Sys2Proof

/-! ### Building a table (41_transmitter.md) -/

/-- No entry is above the running sum. -/
theorem Tx.Ordered.entry_le {t : Tx} (h : t.Ordered) {i : Fin 67} (hi : i.val < t.n.val) :
    (t.entry i).toNat ≤ t.countNow.toNat := by
  have hn := t.n.isLt
  let last : Fin 67 := ⟨t.n.val - 1, by omega⟩
  have hlast : last.val + 1 = t.n.val := by simp only [last]; omega
  rw [h.countNow_last last hlast]
  obtain he | hlt := eq_or_lt_of_le (show i ≤ last from Nat.le_of_lt_succ (by omega))
  · rw [he]
  · exact Nat.le_of_lt (h.increasing i last hlt (by omega))

/-- An empty table is increasing. -/
theorem Tx.ordered_of_empty {t : Tx} (h : t.n = 0) : t.Ordered :=
  ⟨fun i j _ hj => by simp [h] at hj, fun i hi => by simp [h] at hi⟩

/-- Writing the last entry, with the running sum, above all entries before it leaves the table increasing. -/
theorem Tx.ordered_of_set {t t' : Tx} {c : Word} {k : Nat} (hk : k < 67) (h : t.Ordered) (hkn : k ≤ t.n.val)
    (hcount : t'.count = t.count.set k c hk) (hn : t'.n.val = k + 1) (hsum : t'.countNow = c)
    (hc : ∀ i : Fin 67, i.val < k → (t.entry i).toNat < c.toNat) : t'.Ordered := by
  constructor
  · intro i j hij hj
    have hik : i.val < k := by have : i.val < j.val := hij; omega
    rw [entry_set t c k hk t' hcount, entry_set t c k hk t' hcount, if_neg (by omega)]
    split
    · exact hc i hik
    · exact h.increasing i j hij (by omega)
  · intro i hi
    rw [entry_set t c k hk t' hcount, if_pos (by omega), hsum]

/-- A phase that is not empty is one more entry above the others (R106). -/
theorem Tx.Ordered.pushPhase {t t' : Tx} {d : Word} (h : t.Ordered) (hd : d ≠ 0) (hp : t.pushPhase d = some t') :
    t'.Ordered ∧ 1 ≤ t'.n.val ∧ t'.countNow.toNat = t.countNow.toNat + d.toNat := by
  obtain ⟨hnone, -⟩ | ⟨hn, hsum, hsome⟩ := pushPhase_cases t d
  · rw [hnone] at hp; cases hp
  · rw [hsome] at hp
    cases hp
    have hadd : (t.countNow + d).toNat = t.countNow.toNat + d.toNat := BitVec.toNat_add_of_lt hsum
    have hpos : d.toNat ≠ 0 := fun h0 => hd (BitVec.eq_of_toNat_eq h0)
    refine ⟨Tx.ordered_of_set hn h le_rfl rfl rfl rfl fun i hi => ?_, Nat.le_add_left .., hadd⟩
    have := h.entry_le hi
    omega

/-- The last phase of a table made longer by `g` (R105). -/
theorem Tx.Ordered.extendLast {t : Tx} {dOld g : Word} (h : t.Ordered)
    (hsum : t.countNow.toNat + g.toNat < 2 ^ 32) :
    (t.extendLast dOld (dOld + g)).Ordered ∧ (t.extendLast dOld (dOld + g)).n = t.n ∧
      (t.extendLast dOld (dOld + g)).countNow.toNat ≤ t.countNow.toNat + g.toNat := by
  have hc : t.countNow - dOld + (dOld + g) = t.countNow + g := by rw [← add_assoc, sub_add_cancel]
  have hadd : (t.countNow + g).toNat = t.countNow.toNat + g.toNat := BitVec.toNat_add_of_lt hsum
  unfold Tx.extendLast
  split
  · next hn =>
    rw [hc]
    have hlt := t.n.isLt
    refine ⟨Tx.ordered_of_set (k := t.n.val - 1) (by omega) h (Nat.sub_le ..) rfl (by simp only; omega) rfl
      fun i hi => ?_, rfl, hadd.le⟩
    have hi' : i.val < t.n.val := by omega
    have hlast : t.countNow = _ := h.countNow_last ⟨t.n.val - 1, by omega⟩ (by simp only; omega)
    have := h.increasing i ⟨t.n.val - 1, by omega⟩ hi (by simp only; omega)
    rw [hadd, hlast]
    omega
  · exact ⟨h, rfl, Nat.le_add_right ..⟩

/-- A table of at least one entry, increasing, that ends at or before `m` µs. -/
structure Tx.EndsBy (t : Tx) (m : Nat) : Prop where
  ordered : t.Ordered
  nonempty : 1 ≤ t.n.val
  sum_le : t.countNow.toNat ≤ m

/-- The level held during construction is not read by the table. -/
theorem Tx.EndsBy.level {t : Tx} {m : Nat} (h : t.EndsBy m) (b : Level) : Tx.EndsBy { t with levelHigh := b } m :=
  ⟨⟨h.ordered.increasing, h.ordered.countNow_last⟩, h.nonempty, h.sum_le⟩

theorem Tx.EndsBy.pushPhase {t t' : Tx} {d : Word} {m m' : Nat} (h : t.EndsBy m) (hd : d ≠ 0)
    (hm : m + d.toNat ≤ m') (hp : t.pushPhase d = some t') : t'.EndsBy m' := by
  obtain ⟨ho, hn, hs⟩ := h.ordered.pushPhase hd hp
  have := h.sum_le
  exact ⟨ho, hn, by omega⟩

theorem Tx.EndsBy.extendLast {t : Tx} {dOld g : Word} {m m' : Nat} (h : t.EndsBy m) (hm : m + g.toNat ≤ m')
    (hm' : m' < 2 ^ 32) : (t.extendLast dOld (dOld + g)).EndsBy m' := by
  have hs := h.sum_le
  obtain ⟨ho, hn, hs'⟩ := h.ordered.extendLast (dOld := dOld) (show t.countNow.toNat + g.toNat < 2 ^ 32 by omega)
  exact ⟨ho, hn ▸ h.nonempty, by omega⟩

/-- A bit adds at most a whole cell (R107). -/
theorem Tx.EndsBy.addBit {t t' : Tx} {b : Bool} {m : Nat} (h : t.EndsBy m) (hm : m + 834 < 2 ^ 32)
    (hb : t.addBit b = some t') : t'.EndsBy (m + 834) := by
  simp only [Tx.addBit, Option.map_eq_some_iff] at hb
  obtain ⟨u, hu, rfl⟩ := hb
  apply Tx.EndsBy.level
  split at hu
  · have he : (t.extendLast tHalf tFull).EndsBy (m + 416) :=
      h.extendLast (dOld := tHalf) (g := 416) le_rfl (by omega)
    exact he.pushPhase (by decide) (by simp [tHalf]) hu
  · obtain ⟨v, hv, hu⟩ := Option.bind_eq_some_iff.mp hu
    have hv' : v.EndsBy (m + 417) := h.pushPhase (by decide) le_rfl hv
    exact hv'.pushPhase (by decide) (by simp [tHalf]) hu

theorem Tx.EndsBy.addBits {data : Word} {k : Nat} {t t' : Tx} {m : Nat} (h : t.EndsBy m)
    (hm : m + 834 * k < 2 ^ 32) (hb : Tx.addBits data k t = some t') : t'.EndsBy (m + 834 * k) := by
  induction k generalizing t m with
  | zero => cases hb; exact h
  | succ k ih =>
    obtain ⟨u, hu, hb⟩ := Option.bind_eq_some_iff.mp hb
    have hcell : m + 834 * (k + 1) = m + 834 + 834 * k := by ring
    rw [hcell] at hm ⊢
    exact ih (h.addBit (lt_of_le_of_lt (Nat.le_add_right ..) hm) hu) hm hb

theorem endsBy_startBit {t t' : Tx} (h : t.startBit = some t') : t'.EndsBy 834 := by
  obtain ⟨u, hu, rfl⟩ := Option.map_eq_some_iff.mp h
  obtain ⟨v, hv, hu⟩ := Option.bind_eq_some_iff.mp hu
  obtain ⟨ho, hn, hs⟩ := (Tx.ordered_of_empty (clearTable_n t)).pushPhase (d := tHalf) (by decide) hv
  exact (Tx.EndsBy.pushPhase (m := 417) ⟨ho, hn, hs.le⟩ (by decide) le_rfl hu).level true

theorem Tx.EndsBy.stopCondition {t t' : Tx} {m : Nat} (h : t.EndsBy m) (hm : m + 2450 < 2 ^ 32)
    (hs : t.stopCondition = some t') : t'.EndsBy (m + 2450) := by
  unfold Tx.stopCondition at hs
  split at hs
  · cases hs
    exact h.extendLast (dOld := tHalf) (g := 2033) (by simp) hm
  · exact h.pushPhase (by decide) le_rfl hs

/-- The table of a frame is increasing, and not empty (R108, R110). -/
theorem endsBy_encodeFrame {t t' : Tx} {k : FrameKind} {length : Nat} {data : Word} (hl : length ≤ 32)
    (h : t.encodeFrame k length data = some t') : t'.EndsBy 29972 := by
  obtain ⟨u, hu, h⟩ := Option.bind_eq_some_iff.mp h
  obtain ⟨v, hv, h⟩ := Option.bind_eq_some_iff.mp h
  have hstart := endsBy_startBit hu
  have hbits : v.EndsBy 27522 := by
    split at hv
    · obtain ⟨w, hw, rfl⟩ := Option.map_eq_some_iff.mp hv
      exact (hstart.pushPhase (by decide) (by simp [tCorrupt]) hw).level false
    · have hb := hstart.addBits (by omega) hv
      exact ⟨hb.ordered, hb.nonempty, hb.sum_le.trans (by omega)⟩
  exact hbits.stopCondition (by decide) h

theorem builtFrom_encodeFrame {t t' : Tx} {k : FrameKind} {length : Nat} {data : Word}
    (h : t.encodeFrame k length data = some t') : t.BuiltFrom t' := by
  obtain ⟨u, hu, h⟩ := Option.bind_eq_some_iff.mp h
  obtain ⟨v, hv, h⟩ := Option.bind_eq_some_iff.mp h
  have hstart : t.BuiltFrom u := by
    obtain ⟨w, hw, rfl⟩ := Option.map_eq_some_iff.mp hu
    obtain ⟨x, hx, hw⟩ := Option.bind_eq_some_iff.mp hw
    have hclear : t.BuiltFrom t.clearTable := rfl
    exact ((hclear.trans (builtFrom_pushPhase hx)).trans (builtFrom_pushPhase hw)).level true
  have hbits : u.BuiltFrom v := by
    split at hv
    · obtain ⟨w, hw, rfl⟩ := Option.map_eq_some_iff.mp hv
      exact (builtFrom_pushPhase hw).level false
    · exact builtFrom_addBits hv
  have hstop : v.BuiltFrom t' := by
    unfold Tx.stopCondition at h
    split at h
    · cases h; exact builtFrom_extendLast ..
    · exact builtFrom_pushPhase h
  exact (hstart.trans hbits).trans hstop

/-! ### The operations of the transmitter -/

/-- The invariant of a transmitter that is not armed: nothing of it is running or waiting. -/
theorem Tx.sound_of_unarmed {t : Tx} (ho : t.Ordered) (ha : t.armed = false) (hr : t.running = false)
    (hl : t.line = false) : t.Sound false where
  ordered := ho
  armed_nonempty h := by simp [ha] at h
  running_armed h := by simp [hr] at h
  building_unarmed _ := ha
  pending_armed h := nomatch h
  running_index h := by simp [hr] at h
  line_running h := by simp [hl] at h
  armed_settles h := by simp [ha] at h

/-- What the invariant says while nothing is armed. -/
theorem State.Inv.unarmed {s : State} (h : s.Inv) (ha : s.tx.armed = false) :
    s.tx.running = false ∧ s.tx.line = false ∧ s.rx.pendingTx = false := by
  have hr : s.tx.running = false := by simpa [ha] using h.running_armed
  exact ⟨hr, by simpa [hr] using h.line_running, by simpa [ha] using h.pending_armed⟩

/-- While nothing is armed, the table may be rewritten and a construction begun or ended. -/
theorem State.Inv.rebuild {s : State} (h : s.Inv) (ha : s.tx.armed = false) {t : Tx} (hb : s.tx.BuiltFrom t)
    (ho : t.Ordered) (b : Bool) : State.Inv { s with tx := { t with building := b } } := by
  obtain ⟨hr, hl, hp⟩ := h.unarmed ha
  rw [hb] at ho ⊢
  refine .of_parts ?_ h.rx h.q
  dsimp only
  rw [hp]
  exact Tx.sound_of_unarmed ⟨ho.increasing, ho.countNow_last⟩ ha hr hl

/-- A finished table is armed with a legal type, and started or left waiting (R104 step 3, R115). -/
theorem State.Inv.armAndSchedule {s : State} (h : s.Inv) (ha : s.tx.armed = false) {t : Tx} (hb : s.tx.BuiltFrom t)
    (ho : t.Ordered) (hn : 1 ≤ t.n.val) {k : FrameKind} {prio : Fin 8} (hk : (settleIndex k prio).isSome = true)
    (rep : BitVec 8) : (armAndSchedule k prio rep t s).Inv := by
  obtain ⟨hr, hl, hp⟩ := h.unarmed ha
  refine State.Inv.rxScheduleTransmission (.of_parts ?_ h.rx h.q) rfl
  rw [hb] at ho hn ⊢
  exact
    { ordered := ⟨ho.increasing, ho.countNow_last⟩
      armed_nonempty := fun _ => hn
      running_armed := fun _ => rfl
      building_unarmed := nofun
      pending_armed := fun _ => rfl
      running_index := fun hf => by simp [hr] at hf
      line_running := fun hf => by simp [hl] at hf
      armed_settles := fun _ => hk }

theorem State.Inv.tableOverflow {s : State} (h : s.Inv) (ha : s.tx.armed = false) : (tableOverflow s).Inv := by
  have hc : s.tx.BuiltFrom s.tx.clearTable := rfl
  exact (h.rebuild ha hc (Tx.ordered_of_empty rfl) false).report _

/-- A kind has a settling time, a priority being legal where it means something (R11). -/
theorem settleIndex_isSome {k : FrameKind} {prio : Fin 8} (hk : k ≠ .none)
    (hp : hasPriority k = true → 1 ≤ prio.val ∧ prio.val ≤ 5) : (settleIndex k prio).isSome = true := by
  cases k
  case none => exact absurd rfl hk
  case forward | query => simp [settleIndex, hp rfl]
  all_goals rfl

theorem sendKind_ne_none {kind : KindField} {k : FrameKind} (h : sendKind kind = some k) : k ≠ .none := by
  cases kind <;> cases h <;> decide

/-- A legal priority is stored as it is (R104 step 3). -/
theorem storedPriority_legal {k : FrameKind} {prio : BitVec 4} (hk : hasPriority k = true)
    (hp : legalPriority prio = true) :
    1 ≤ (storedPriority k prio).val ∧ (storedPriority k prio).val ≤ 5 := by
  obtain ⟨h1, h5⟩ : 1 ≤ prio.toNat ∧ prio.toNat ≤ 5 := by simpa [legalPriority] using hp
  have hv : (storedPriority k prio).val = prio.toNat % 8 := by rw [storedPriority, if_pos hk]; rfl
  omega

/-- A `SEND` that is accepted is short enough, and its type has a settling time (R104 steps 1 and 3, R11). -/
theorem acceptableKind_legal {kind : KindField} {prio : BitVec 4} {length : BitVec 8} {k : FrameKind}
    (h : acceptableKind kind prio length = some k) :
    length.toNat ≤ 32 ∧ (settleIndex k (storedPriority k prio)).isSome = true := by
  unfold acceptableKind at h
  split at h
  · cases h
  · next hl =>
    split at h
    · cases h
    · next k' hk =>
      split at h
      · cases h
      · next hp =>
        cases h
        refine ⟨Nat.le_of_not_lt hl, settleIndex_isSome (sendKind_ne_none hk) fun hk' => ?_⟩
        exact storedPriority_legal hk' (by simpa [hk'] using hp)

theorem State.Inv.send {s : State} (h : s.Inv) (kind : KindField) (prio : BitVec 4) (length rep : BitVec 8)
    (data : Word) : (send kind prio length rep data s).Inv := by
  unfold Machine.send
  split
  · exact h.report _
  · next k hk =>
    obtain ⟨hl, hset⟩ := acceptableKind_legal hk
    split
    · exact h.report _
    · next ha =>
      rw [Bool.not_eq_true] at ha
      split
      · exact h.tableOverflow ha
      · next t ht =>
        have he := endsBy_encodeFrame hl ht
        exact h.armAndSchedule ha (builtFrom_encodeFrame ht) he.ordered he.nonempty hset rep

theorem State.Inv.seqStart {s : State} (h : s.Inv) : (seqStart s).Inv := by
  unfold Machine.seqStart
  split
  · exact h.report _
  · next ha =>
    have hc : s.tx.BuiltFrom s.tx.clearTable := rfl
    exact h.rebuild (by simpa using ha) hc (Tx.ordered_of_empty rfl) true

theorem State.Inv.seqNext {s : State} (h : s.Inv) (periodUs : Word) : (seqNext periodUs s).Inv := by
  unfold Machine.seqNext
  split
  · exact h.report _
  · next ha =>
    obtain ⟨ha, hbuild⟩ : s.tx.armed = false ∧ s.tx.building = true := by simpa using ha
    split
    · exact h.report _
    · next hd =>
      split
      · exact h.tableOverflow ha
      · next t ht => exact h.rebuild ha (builtFrom_pushPhase ht) (h.tx.ordered.pushPhase hd ht).1 t.building

theorem State.Inv.seqExecute {s : State} (h : s.Inv) : (seqExecute s).Inv := by
  unfold Machine.seqExecute
  split
  · exact h.report _
  · next hc =>
    obtain ⟨⟨ha, -⟩, hn⟩ : (s.tx.armed = false ∧ s.tx.building = true) ∧ ¬s.tx.n = 0 := by simpa using hc
    have hn' : 1 ≤ s.tx.n.val := Nat.pos_of_ne_zero fun h0 => hn (Fin.ext h0)
    exact h.armAndSchedule ha (.refl _) h.tx.ordered hn' rfl 0

/-- Only the query timer is written at the exhaustion of a query's table (R122). -/
theorem State.Inv.armQuery {s : State} (h : s.Inv) : (armQuery s).Inv := by
  unfold Machine.armQuery
  split
  · exact h.congr rfl rfl rfl rfl
  all_goals exact h

/-- At exhaustion the transmitter stops, and stays armed only if it was (R121). -/
theorem State.Inv.exhaust {s : State} (h : s.Inv) (hr : s.tx.running = true) : (exhaust s).Inv := by
  have ha := h.running_armed hr
  refine State.Inv.armQuery (.of_parts ?_ h.rx h.q)
  exact
    { ordered := ⟨h.table_increasing, h.countNow_last⟩
      armed_nonempty := fun _ => h.armed_nonempty ha
      running_armed := nofun
      building_unarmed := fun hb => by simp [h.building_unarmed hb] at ha
      pending_armed := fun hp => Bool.or_eq_true_iff.mpr (.inr hp)
      running_index := nofun
      line_running := nofun
      armed_settles := fun _ => h.armed_settles ha }

theorem State.Inv.txMatch {s : State} (h : s.Inv) : (txMatch s).Inv := by
  unfold Machine.txMatch
  split
  · next hr =>
    split
    · next hi =>
      refine .of_parts ?_ h.rx h.q
      exact { h.tx with
        ordered := ⟨h.table_increasing, h.countNow_last⟩
        running_index := fun _ => hi
        line_running := fun _ => hr }
    · exact h.exhaust hr
  · exact h

/-! ### RESET, every operation, every step -/

theorem resetIdle_inv (s : State) : (resetIdle s).Inv :=
  .of_parts (Tx.sound_of_unarmed (Tx.ordered_of_empty rfl) rfl rfl rfl) (Rx.sound_of_empty rfl)
    ⟨Nat.zero_le _, nofun⟩

/-- `RESET` establishes the invariants, whatever the state before it (R270). -/
theorem reset_inv (s : State) : (reset s).Inv := by
  unfold reset
  dsimp only
  split
  · exact (resetIdle_inv s).report_state rfl _ _
  · exact resetIdle_inv s

/-- Every operation keeps the invariants. -/
theorem exec_inv {i : Instr} {s t : State} (h : s.Inv) (he : exec i s = .next t) : t.Inv := by
  cases i <;> cases he
  case send => exact h.send ..
  case seqStart => exact h.seqStart
  case seqNext => exact h.seqNext _
  case seqExecute => exact h.seqExecute
  case reqStatus => exact h.reqStatus
  case tryReceive => exact h.tryReceive
  case isTxIdle => exact h.congr rfl rfl rfl rfl
  case rxEdge => exact h.rxEdge ..
  case rxStopbitMatch => exact h.rxStopbitMatch
  case rxPeriodMatch => exact h.rxPeriodMatch
  case rxQueryMatch => exact h.rxQueryMatch
  case txMatch => exact h.txMatch
  case reset => exact reset_inv s

/-- The consequent edge of an operation is an edge like any other, and discarding an instant writes only inputs. -/
theorem State.Inv.afterOp {t : State} (h : t.Inv) (i : Instr) (s : State) : (afterOp i s t).Inv := by
  obtain ⟨-, ha⟩ | ⟨-, -, -, ha⟩ | ⟨-, -, ha⟩ := afterOp_cases i s t <;> rw [ha]
  · exact h.congr rfl rfl rfl rfl
  · have hseen : State.Inv { t with env := { t.env with seen := t.lineActive } } := h.congr rfl rfl rfl rfl
    exact hseen.rxEdge ..
  · exact h

theorem State.Inv.takeEvent {s : State} (h : s.Inv) (i : Instr) : (takeEvent i s).Inv := h.congr rfl rfl rfl rfl

theorem State.Inv.takeCommand {s : State} (h : s.Inv) (rest : List (BitVec 64)) : (takeCommand rest s).Inv :=
  h.congr rfl rfl rfl rfl

/-- Settles O58: every operation a step can run keeps each part of the invariant, and the rest of a step writes only
inputs. -/
theorem everyStepKeepsTheInvariants : Obligations.EveryStepKeepsTheInvariants := by
  intro s t h hstep
  have hp : (presentArrived s).Inv := h.congr rfl rfl rfl rfl
  obtain ⟨i, u, v, hf, he, rfl⟩ | ⟨u, hf, rfl⟩ | ⟨i, -, rfl⟩ | ⟨-, rfl⟩ := step_cases hstep
  · have hu : u.Inv := by
      obtain ⟨-, rfl⟩ | ⟨w, rest, -, -, rfl⟩ := fetch_op_cases hf
      · exact hp.takeEvent i
      · exact hp.takeCommand rest
    exact (exec_inv hu he).afterOp i u
  · obtain ⟨w, rest, e, -, -, rfl⟩ := fetch_noCommand_cases hf
    exact (hp.takeCommand rest).report _
  · exact hp.takeEvent i
  · exact hp.congr rfl rfl rfl rfl

end Sys2Proof.Machine
end

section
/-! The life of a transmission: how far each `TX_MATCH` brings it, and what sets and clears `tx.armed`. -/

namespace Sys2Proof.Machine

open Sys2Proof

/-! ### One TX_MATCH -/

@[simp] theorem armQuery_tx (s : State) : (armQuery s).tx = s.tx := by
  unfold armQuery; cases s.tx.kind <;> rfl

@[simp] theorem exhaust_tx (s : State) : (exhaust s).tx = { s.tx with
    line := false, running := false, armed := decide (0 < s.tx.rep.toNat) || s.rx.pendingTx } := by
  simp [exhaust]

/-- At an entry that is not the last the transmission goes on with the next one (R120). -/
theorem txMatch_of_not_last {s : State} (hr : s.tx.running = true) (hi : s.tx.index.val + 1 < s.tx.n.val) :
    (txMatch s).tx.running = true ∧ (txMatch s).tx.index.val = s.tx.index.val + 1 ∧ (txMatch s).tx.n = s.tx.n := by
  simp [txMatch, hr, hi, nextPhase]

/-- At the last entry it is over (R121). -/
theorem txMatch_of_last {s : State} (hr : s.tx.running = true) (hi : ¬s.tx.index.val + 1 < s.tx.n.val) :
    txMatch s = exhaust s := by
  simp [txMatch, hr, hi]

/-- `k` matches before the last entry bring the transmission `k` entries on. -/
theorem iterate_txMatch {s : State} (hr : s.tx.running = true) {k : Nat} (hk : s.tx.index.val + k < s.tx.n.val) :
    (txMatch^[k] s).tx.running = true ∧ (txMatch^[k] s).tx.index.val = s.tx.index.val + k ∧
      (txMatch^[k] s).tx.n = s.tx.n := by
  induction k with
  | zero => exact ⟨hr, rfl, rfl⟩
  | succ k ih =>
    obtain ⟨hrk, hik, hnk⟩ := ih (by omega)
    obtain ⟨hr', hi', hn'⟩ := txMatch_of_not_last hrk (by rw [hik, hnk]; omega)
    rw [Function.iterate_succ_apply']
    exact ⟨hr', by omega, hn'.trans hnk⟩

/-- Settles O26: by induction the match before the last leaves the last entry loaded, and the next one exhausts the
table. -/
theorem transmissionEndsAfterItsLastEntry : Obligations.TransmissionEndsAfterItsLastEntry := by
  intro s h hr
  have hlt := h.running_index hr
  refine ⟨fun k hk => ?_, ?_⟩
  · obtain ⟨hrk, hik, -⟩ := iterate_txMatch hr (k := k) (by omega)
    exact ⟨hrk, hik⟩
  · obtain ⟨m, hm⟩ : ∃ m, s.tx.n.val - s.tx.index.val = m + 1 := ⟨_, (Nat.sub_add_cancel (by omega)).symm⟩
    obtain ⟨hrm, him, hnm⟩ := iterate_txMatch hr (k := m) (by omega)
    rw [hm, Function.iterate_succ_apply', txMatch_of_last hrm (by rw [him, hnm]; omega)]
    simp

/-! ### What the scheduler leaves of the transmitter -/

/-- `t'` has the table, the type and the flags `armed` and `building` of `t`: it differs at most in what starting a
transmission, moving it on and scheduling a repeat write. -/
def Tx.SameTable (t t' : Tx) : Prop :=
  t' = { t with
    index := t'.index, running := t'.running, rep := t'.rep, toggleOnMatch := t'.toggleOnMatch, line := t'.line,
    t0 := t'.t0 }

theorem Tx.SameTable.armed {t t' : Tx} (h : t.SameTable t') : t'.armed = t.armed := by rw [h]

theorem rxScheduleTransmission_sameTable (s : State) : s.tx.SameTable (rxScheduleTransmission s).tx := by
  obtain ⟨e, ⟨-, h⟩ | ⟨c, h⟩⟩ := rxScheduleTransmission_cases s <;> rw [h] <;> rfl

theorem scheduleSettlingTimeout_sameTable (s : State) : s.tx.SameTable (scheduleSettlingTimeout s).tx := by
  obtain ⟨-, h⟩ | ⟨-, h⟩ | ⟨-, -, -, h⟩ := scheduleSettlingTimeout_cases s <;> rw [h]
  · rfl
  · exact rxScheduleTransmission_sameTable (openWindow s)
  · have hs := rxScheduleTransmission_sameTable { openWindow s with tx := { s.tx with rep := s.tx.rep - 1 } }
    unfold Tx.SameTable at hs ⊢
    exact hs

theorem servePending_sameTable (s : State) : s.tx.SameTable (servePending s).tx := by
  unfold servePending; split <;> rfl

theorem rxPeriodMatch_sameTable (s : State) : s.tx.SameTable (rxPeriodMatch s).tx := by
  have hs := servePending_sameTable { s with periodCmp.armed := false }
  unfold rxPeriodMatch
  cases s.rx.state
  case idle | interFrameIdle =>
    cases s.rx.pendingTx
    · rfl
    · exact hs
  all_goals rfl

theorem rxStopbitMatch_sameTable (s : State) : s.tx.SameTable (rxStopbitMatch s).tx := by
  have hc : s.tx.SameTable (completeFrame { s with stopCmp.armed := false }).tx := scheduleSettlingTimeout_sameTable _
  have ho : s.tx.SameTable (closeOut { s with stopCmp.armed := false }).tx := scheduleSettlingTimeout_sameTable _
  unfold rxStopbitMatch
  dsimp only
  split <;> split
  case h_1.isFalse | h_2.isFalse | h_3.isFalse | h_4.isFalse => exact hc
  case h_5.isFalse | h_6.isFalse | h_7.isFalse => exact ho
  all_goals rfl

@[simp] theorem rxQueryMatch_tx (s : State) : (rxQueryMatch s).tx = s.tx := by
  unfold rxQueryMatch; cases s.rx.state <;> rfl

@[simp] theorem reqStatus_tx (s : State) : (reqStatus s).tx = s.tx := by
  unfold reqStatus; split <;> rfl

@[simp] theorem tryReceive_tx (s : State) : (tryReceive s).tx = s.tx := by
  unfold tryReceive; split <;> rfl

@[simp] theorem reset_tx (s : State) : (reset s).tx = s.tx.atReset := by
  unfold reset; dsimp only; split <;> rfl

/-! ### tx.armed -/

/-- The commands that build a table by hand leave `tx.armed` as it is (R111, R113). -/
@[simp] theorem seqStart_armed (s : State) : (seqStart s).tx.armed = s.tx.armed := by
  unfold seqStart; split <;> rfl

@[simp] theorem seqNext_armed (periodUs : Word) (s : State) : (seqNext periodUs s).tx.armed = s.tx.armed := by
  unfold seqNext
  split
  · rfl
  · split
    · rfl
    · split
      · simp
      · next t ht => rw [show t = _ from builtFrom_pushPhase ht]

/-- An armed transmitter refuses what would arm it again (R104 step 2, R115). -/
theorem send_of_armed {s : State} (ha : s.tx.armed = true) (kind : KindField) (prio : BitVec 4)
    (length rep : BitVec 8) (data : Word) : (send kind prio length rep data s).tx = s.tx := by
  unfold send; split <;> simp [ha]

theorem seqExecute_of_armed {s : State} (ha : s.tx.armed = true) : (seqExecute s).tx = s.tx := by
  simp [seqExecute, ha]

/-- What an operation can do to `tx.armed`: nothing, or arm it by `SEND` or `SEQ_EXECUTE`, or clear it by `RESET`, or
leave it for what is outstanding at the exhaustion of the table (R19). -/
theorem exec_armed_cases {i : Instr} {s t : State} (he : exec i s = .next t) :
    t.tx.armed = s.tx.armed ∨
    (s.tx.armed = false ∧ (i = .seqExecute ∨ ∃ kind prio length rep data, i = .send kind prio length rep data)) ∨
    (i = .reset ∧ t.tx.armed = false) ∨
    (i = .txMatch ∧ s.tx.running = true ∧ ¬s.tx.index.val + 1 < s.tx.n.val ∧
      t.tx.armed = (decide (0 < s.tx.rep.toNat) || s.rx.pendingTx)) := by
  cases i <;> cases he
  case send kind prio length rep data =>
    cases ha : s.tx.armed
    · exact .inr (.inl ⟨rfl, .inr ⟨kind, prio, length, rep, data, rfl⟩⟩)
    · exact .inl (by rw [send_of_armed ha, ha])
  case seqExecute =>
    cases ha : s.tx.armed
    · exact .inr (.inl ⟨rfl, .inl rfl⟩)
    · exact .inl (by rw [seqExecute_of_armed ha, ha])
  case txMatch =>
    by_cases hr : s.tx.running = true
    · by_cases hi : s.tx.index.val + 1 < s.tx.n.val
      · exact .inl (by simp [txMatch, hr, hi, nextPhase])
      · exact .inr (.inr (.inr ⟨rfl, hr, hi, by simp [txMatch_of_last hr hi]⟩))
    · exact .inl (by simp [txMatch, hr])
  case reset => exact .inr (.inr (.inl ⟨rfl, by simp⟩))
  case rxStopbitMatch => exact .inl (rxStopbitMatch_sameTable s).armed
  case rxPeriodMatch => exact .inl (rxPeriodMatch_sameTable s).armed
  all_goals exact .inl (by simp)

/-- Settles O28: by the four things an operation can do to `tx.armed`, a running table being armed already. -/
theorem armedIsSetAndClearedByItsRules : Obligations.ArmedIsSetAndClearedByItsRules := by
  intro i s t h he
  obtain hsame | ⟨hs, hi⟩ | ⟨hi, ht⟩ | ⟨hi, hr, hlast, ht⟩ := exec_armed_cases he
  · refine ⟨fun hs ht => ?_, fun hs ht => ?_⟩ <;> simp [hsame, hs] at ht
  · exact ⟨fun _ _ => hi, fun ha => by simp [hs] at ha⟩
  · exact ⟨fun _ ha => by simp [ht] at ha, fun _ _ => .inl hi⟩
  · have ha := h.running_armed hr
    have hlt := h.running_index hr
    refine ⟨fun hs => by simp [ha] at hs, fun _ hc => .inr ⟨hi, hr, by omega, ?_⟩⟩
    rw [ht, Bool.or_eq_false_iff, decide_eq_false_iff_not] at hc
    exact ⟨BitVec.eq_of_toNat_eq (Nat.eq_zero_of_not_pos hc.1), hc.2⟩

/-! ### The state after reset -/

/-- Settles O60: at reset nothing is armed, no frame is in progress, and nothing is queued or presented. -/
theorem resetMeetsTheInvariants : Obligations.ResetMeetsTheInvariants := by
  have hinv : State.reset.Inv := resetIdle_inv State.reset
  have htimed : State.reset.Timed := by constructor <;> simp [State.reset, RxState.decoding]
  have hplaced : State.reset.Placed := ⟨nofun, nofun⟩
  exact ⟨hinv, htimed, nofun, hplaced, nofun, nofun⟩

end Sys2Proof.Machine
end

section
/-! The operation a step runs: the event vector of the instant, what may take effect, what taking an input leaves, and
the step that follows from what is fetched. -/

namespace Sys2Proof.Machine

open Sys2Proof

/-! ### The event vector -/

theorem eventInput_of_first {s : State} {pre post : List EventInput} {e : EventInput}
    (hs : s.env.presented = pre ++ e :: post) (hpre : ∀ x ∈ pre, x.vec.getLsbD 0 = false)
    (he : e.vec.getLsbD 0 = true) : s.eventInput.tCap = e.tCap ∧ s.eventInput.level = e.level := by
  have hf : s.env.presented.find? (fun e => e.vec.getLsbD 0) = some e :=
    List.find?_eq_some_iff_append.mpr ⟨he, pre, post, hs, by simpa using hpre⟩
  rw [State.eventInput, hf]
  exact ⟨rfl, rfl⟩

theorem eventInput_of_none {s : State} (h : ∀ x ∈ s.env.presented, x.vec.getLsbD 0 = false) :
    s.eventInput.tCap = s.nowUs ∧ s.eventInput.level = s.lineActive := by
  have hf : s.env.presented.find? (fun e => e.vec.getLsbD 0) = none := List.find?_eq_none.mpr (by simpa using h)
  rw [State.eventInput, hf]
  exact ⟨rfl, rfl⟩

theorem getLsbD_eventInput (s : State) (k : Nat) :
    s.eventInput.vec.getLsbD k = true ↔
      (∃ e ∈ s.env.presented, e.vec.getLsbD k = true) ∨ s.dueVector.getLsbD k = true := by
  rw [eventInput_vec, BitVec.getLsbD_or, Bool.or_eq_true, getLsbD_presentedVec]

theorem getLsbD_eventInput_of_none {s : State} {k : Nat} (h : ∀ e ∈ s.env.presented, e.vec.getLsbD k = false)
    (hd : s.dueVector.getLsbD k = false) : s.eventInput.vec.getLsbD k = false := by
  rw [← Bool.not_eq_true, getLsbD_eventInput]
  rintro (⟨e, he, ht⟩ | ht)
  · exact absurd ht (by rw [h e he]; decide)
  · exact absurd ht (by rw [hd]; decide)

/-- The bits of what is due, each its own channel's (30_encoding.md R70). -/
theorem getLsbD_dueVector (s : State) :
    s.dueVector.getLsbD 0 = s.edgeDue ∧ s.dueVector.getLsbD 1 = s.stopCmp.due s.nowUs ∧
      s.dueVector.getLsbD 2 = s.periodCmp.due s.nowUs ∧ s.dueVector.getLsbD 3 = s.queryCmp.due s.nowUs ∧
      s.dueVector.getLsbD 4 = s.txDue ∧ s.dueVector.getLsbD 5 = false := by
  have bits : ∀ e a b c d : Bool,
      let v := bitAt e 0 ||| bitAt a 1 ||| bitAt b 2 ||| bitAt c 3 ||| bitAt d 4
      v.getLsbD 0 = e ∧ v.getLsbD 1 = a ∧ v.getLsbD 2 = b ∧ v.getLsbD 3 = c ∧ v.getLsbD 4 = d ∧
        v.getLsbD 5 = false := by decide
  exact bits ..

theorem Compare.due_iff (c : Compare) (nowUs : Word) : c.due nowUs = true ↔ c = ⟨true, nowUs⟩ := by
  cases c; simp [Compare.due]

theorem txDue_iff (s : State) :
    s.txDue = true ↔ s.tx.running = true ∧ s.nowUs - s.tx.t0 = s.tx.entry s.tx.index := by
  simp [State.txDue]

/-! ### What may take effect -/

theorem eventAllowed_iff (i : Instr) (s : State) :
    eventAllowed i s = true ↔
      (i = .rxStopbitMatch → s.stopCmp = ⟨true, s.nowUs⟩) ∧ (i = .rxPeriodMatch → s.periodCmp = ⟨true, s.nowUs⟩) ∧
      (i = .rxQueryMatch → s.queryCmp = ⟨true, s.nowUs⟩) ∧
      (i = .txMatch → s.tx.running = true → s.nowUs - s.tx.t0 = s.tx.entry s.tx.index) := by
  cases i
  case txMatch => cases hr : s.tx.running <;> simp [eventAllowed, txDue_iff, hr]
  all_goals simp [eventAllowed, Compare.due_iff]

/-- Two vectors have an event in common exactly if some bit is set in both. -/
theorem and_ne_zero_iff (v w : BitVec 6) : v &&& w ≠ 0 ↔ ∃ k, w.getLsbD k = true ∧ v.getLsbD k = true := by
  constructor
  · contrapose!
    intro h
    refine BitVec.eq_of_getLsbD_eq fun k _ => ?_
    rw [BitVec.getLsbD_and, Bool.and_comm]
    simpa using h k
  · rintro ⟨k, hw, hv⟩ h0
    have hk : (v &&& w).getLsbD k = true := by rw [BitVec.getLsbD_and, hv, hw]; rfl
    simp [h0] at hk

theorem matchVoid_iff (i : Instr) (s : State) :
    matchVoid i s = true ↔
      i = .txMatch ∨ ∃ k, (eventBit i).getLsbD k = true ∧ s.env.matched.getLsbD k = true := by
  rw [matchVoid, Bool.or_eq_true, decide_eq_true_iff, bne_iff_ne, and_ne_zero_iff]

/-- The mask of a step of R241 lets through exactly the events of this step and of later ones. -/
theorem eventBit_and_mask (i : Instr) (ph : Phase) :
    eventBit i &&& ph.mask = eventBit i ↔ isCommand i ∨ ph.number ≤ (phaseOf i).number := by
  cases i
  case rxEdge | rxStopbitMatch | rxPeriodMatch | rxQueryMatch | txMatch | reset =>
    cases ph <;> simp [isCommand, eventBit, phaseOf, Phase.mask, Phase.number]
  all_goals exact iff_of_true (BitVec.zero_and ..) (.inl rfl)

/-! ### Taking an event -/

theorem seenAfter_eq (i : Instr) (s : State) :
    seenAfter i s = if eventBit i = 1 then s.lineActive else s.env.seen := by
  cases i <;> rfl

theorem following_number (ph : Phase) : ph.following.number = min 7 (ph.number + 1) := by
  cases ph <;> rfl

/-- The step of R241 is not passed while an equal event is presented (log 28). -/
theorem phaseAfter_of_more {i : Instr} {es : List EventInput} (h : ∃ x ∈ es, x.vec &&& eventBit i ≠ 0) :
    phaseAfter i es = phaseOf i := by
  rw [phaseAfter, if_neg]
  rw [presentedVec_and_eq_zero]
  obtain ⟨x, hx, hb⟩ := h
  exact fun hall => hb (hall x hx)

theorem phaseAfter_of_none {i : Instr} {es : List EventInput} (h : ∀ x ∈ es, x.vec &&& eventBit i = 0) :
    phaseAfter i es = (phaseOf i).following := by
  rw [phaseAfter, if_pos ((presentedVec_and_eq_zero es _).mpr h)]

/-! ### From what is fetched to the step -/

/-- The next event: one of the steps not yet passed, or, with no command left, one of the second pass (log 10). -/
theorem fetch_of_event {s : State} {i : Instr}
    (h : decodeEvt (maskInput s.eventInput s.env.phase.mask) = .ok i ∨
      (decodeEvt (maskInput s.eventInput s.env.phase.mask) = .error .noEvent ∧ s.env.cmds = [] ∧
        decodeEvt s.eventInput = .ok i)) : fetch s = fetchEvent i s := by
  obtain h | ⟨h, hc, hd⟩ := h
  · simp [fetch, h]
  · simp [fetch, h, hc, hd]

theorem fetch_of_command {s : State} {i : Instr} {w : BitVec 64} {rest : List (BitVec 64)}
    (h : decodeEvt (maskInput s.eventInput s.env.phase.mask) = .error .noEvent) (hc : s.env.cmds = w :: rest)
    (hd : decodeCmd w = .ok i) : fetch s = .op i (takeCommand rest s) := by
  simp [fetch, h, hc, fetchCommand, hd]

theorem step_of_op {s u t : State} {i : Instr} (hf : fetch (presentArrived s) = .op i u) (he : exec i u = .next t) :
    step s = .next (afterOp i u t) := by
  rw [step, hf]
  exact runOp_of_exec he

/-! ### A bus change made by another device -/

/-- An edge changes no `tx_line`, and so no bus level. -/
theorem rxEdge_lineActive (c : Word) (level : Level) (s : State) :
    (rxEdge c level s).lineActive = s.lineActive := by
  obtain ⟨htx, hp, he, -⟩ := rxEdge_keeps c level s
  rw [State.lineActive, htx, hp, he]
  rfl

/-- So no edge follows an edge (R242). -/
theorem afterOp_rxEdge (c : Word) (level : Level) (s : State) :
    afterOp (.rxEdge c level) s (rxEdge c level s) = rxEdge c level s := by
  obtain ⟨hr, -⟩ | ⟨-, hne, -⟩ | ⟨-, -, ha⟩ := afterOp_cases (.rxEdge c level) s (rxEdge c level s)
  · cases hr
  · exact absurd (rxEdge_lineActive c level s) hne
  · exact ha

/-- An `RX_EDGE` is decoded where neither `RESET` nor `TX_MATCH` comes before it (R241). -/
theorem decodeEvt_rxEdge {e : EventInput} (h5 : e.vec.getLsbD 5 = false) (h4 : e.vec.getLsbD 4 = false)
    (h0 : e.vec.getLsbD 0 = true) : decodeEvt e = .ok (.rxEdge e.tCap e.level) := by
  rw [decodeEvt, h5, h4, h0]
  rfl

/-- With no earlier event left, the level not handed over yet is the next event (60_exceptions.md R233). -/
theorem decodeEvt_edge {s : State} (hno : ∀ x ∈ s.env.presented, x.vec &&& 0b110001 = 0)
    (hl : s.lineActive ≠ s.env.seen) (hph : s.env.phase.number ≤ 3)
    (htx : s.env.phase = .rxEdge ∨ s.dueVector.getLsbD 4 = false) :
    decodeEvt (maskInput s.eventInput s.env.phase.mask) = .ok (.rxEdge s.nowUs s.lineActive) := by
  have bits : ∀ v : BitVec 6, v &&& 0b110001 = 0 →
      v.getLsbD 0 = false ∧ v.getLsbD 4 = false ∧ v.getLsbD 5 = false := by decide
  obtain ⟨hd0, -, -, -, -, hd5⟩ := getLsbD_dueVector s
  have h0 : s.eventInput.vec.getLsbD 0 = true := (getLsbD_eventInput s 0).mpr (.inr (hd0 ▸ (edgeDue_iff s).mpr hl))
  have h5 : s.eventInput.vec.getLsbD 5 = false :=
    getLsbD_eventInput_of_none (fun x hx => (bits x.vec (hno x hx)).2.2) hd5
  have hm0 : s.env.phase.mask.getLsbD 0 = true := by
    revert hph
    cases s.env.phase <;> decide
  have h4 : s.eventInput.vec.getLsbD 4 = false ∨ s.env.phase.mask.getLsbD 4 = false := by
    obtain hp | hd4 := htx
    · exact .inr (by rw [hp]; rfl)
    · exact .inl (getLsbD_eventInput_of_none (fun x hx => (bits x.vec (hno x hx)).2.1) hd4)
  obtain ⟨hcap, hlevel⟩ := eventInput_of_none fun x hx => (bits x.vec (hno x hx)).1
  rw [← hcap, ← hlevel]
  refine decodeEvt_rxEdge (e := maskInput s.eventInput s.env.phase.mask) ?_ ?_ ?_ <;>
    rw [maskInput, BitVec.getLsbD_and]
  · rw [h5, Bool.false_and]
  · exact Bool.and_eq_false_iff.mpr h4
  · rw [h0, hm0]; rfl

/-- The edge of another device's change is run with its level handed over, and nothing follows it. -/
theorem step_of_edge {s : State} (hno : ∀ x ∈ (presentArrived s).env.presented, x.vec &&& 0b000001 = 0)
    (hd : decodeEvt (maskInput (presentArrived s).eventInput (presentArrived s).env.phase.mask) =
      .ok (.rxEdge (presentArrived s).nowUs (presentArrived s).lineActive)) :
    let p := presentArrived s
    step s = .next (rxEdge p.nowUs p.lineActive
      { p with env := { p.env with seen := p.lineActive, phase := .stopMatch } }) := by
  intro p
  let i : Instr := .rxEdge p.nowUs p.lineActive
  have htaken : takeEvent i p = { p with env := { p.env with seen := p.lineActive, phase := .stopMatch } } := by
    have hdrop : dropEvent (eventBit i) p.env.presented = p.env.presented := dropEvent_of_none hno
    rw [takeEvent, hdrop, phaseAfter_of_none hno]
    rfl
  have hf : fetch p = .op i (takeEvent i p) := (fetch_of_event (.inl hd)).trans (if_pos rfl)
  rw [htaken] at hf
  rw [step_of_op hf rfl, afterOp_rxEdge]

/-- Settles O6: the event vector bit by bit, what each fetched operation is taken from, and `fetch` case by case. -/
theorem stepRunsTheDecodedOperation : Obligations.StepRunsTheDecodedOperation := by
  intro s p
  obtain ⟨hd0, hd1, hd2, hd3, hd4, hd5⟩ := getLsbD_dueVector p
  refine ⟨⟨getLsbD_eventInput p, fun _ _ _ => eventInput_of_first, eventInput_of_none⟩, ?_, fun i => ?_, fun i => ?_,
    fun t i hdec => ?_, fun t i w rest hdec hc hd he => ?_, fun hno hl hph htx => ?_⟩
  · rw [hd0, hd1, hd2, hd3, hd4]
    exact ⟨edgeDue_iff p, Compare.due_iff .., Compare.due_iff .., Compare.due_iff .., txDue_iff p, hd5⟩
  · exact ⟨eventAllowed_iff i p, matchVoid_iff i p, eventBit_and_mask i p.env.phase⟩
  · refine ⟨?_, fun pre e post hp hpre he => ?_, dropEvent_of_none, fun hm => ?_, fun hn => ?_⟩
    · rw [← seenAfter_eq]; rfl
    · rw [takeEvent_env_presented, hp]
      exact dropEvent_of_first hpre he
    · exact congrArg Phase.number (phaseAfter_of_more hm)
    · exact (congrArg Phase.number (phaseAfter_of_none hn)).trans (following_number _)
  · have hf : fetch (presentArrived s) = fetchEvent i p := fetch_of_event hdec
    refine ⟨fun ha he => step_of_op (hf.trans ?_) he, fun ha hv => ?_, fun ha hv => ?_⟩
    · simp [fetchEvent, ha]
    · simp [step, hf, fetchEvent, ha, hv]
    · simp [step, hf, fetchEvent, ha, hv]
  · exact step_of_op (fetch_of_command hdec hc hd) he
  · have edgeless : ∀ v : BitVec 6, v &&& 0b110001 = 0 → v &&& 0b000001 = 0 := by decide
    refine ⟨_, rfl, step_of_edge (fun x hx => edgeless x.vec (hno x hx)) (decodeEvt_edge hno hl hph htx), ?_⟩
    rw [rxEdge_lineActive, (rxEdge_keeps ..).2.2.1]
    rfl

end Sys2Proof.Machine
end

section
/-! The table that `encode` builds is the waveform of the frame (41_transmitter.md R101, R107 to R109). -/

namespace Sys2Proof.Machine

open Sys2Proof

/-! ### The valid entries after a push and after a change of the last one -/

/-- The table whose last entry has just been written. -/
theorem table_of_set {t t' : Tx} {c : Word} {k : Nat} (hk : k < 67) (hcount : t'.count = t.count.set k c hk)
    (hn : t'.n.val = k + 1) : t'.table = t.count.toList.take k ++ [c] := by
  have hlen : k < (t.count.toList.set k c).length := by simpa using hk
  rw [Tx.table, hcount, hn, Vector.toList_set, List.take_succ_eq_append_getElem hlen, List.getElem_set_self,
    List.take_set_of_le le_rfl]

/-- The table holds the entries `l`, and the running sum is `m` (10_state.md R15, R17). -/
structure Tx.Holds (t : Tx) (l : List Nat) (m : Nat) : Prop where
  table : t.table = l.map (BitVec.ofNat 32)
  countNow : t.countNow = BitVec.ofNat 32 m

/-- A phase of `d` µs is one more entry (R106). -/
theorem Tx.Holds.pushPhase {t t' : Tx} {l : List Nat} {m d : Nat} (h : t.Holds l m)
    (hp : t.pushPhase (BitVec.ofNat 32 d) = some t') :
    t'.Holds (l ++ [m + d]) (m + d) ∧ t'.levelHigh = t.levelHigh := by
  obtain ⟨hnone, -⟩ | ⟨hn, -, hsome⟩ := pushPhase_cases t (BitVec.ofNat 32 d)
  · rw [hnone] at hp; cases hp
  · rw [hsome] at hp
    cases hp
    have hsum : t.countNow + BitVec.ofNat 32 d = BitVec.ofNat 32 (m + d) := by rw [h.countNow, BitVec.ofNat_add]
    refine ⟨⟨(table_of_set hn rfl rfl).trans ?_, hsum⟩, rfl⟩
    rw [← Tx.table, h.table, hsum, List.map_append, List.map_singleton]

/-- The last phase, a half one, becomes one of `g` µs (R105). -/
theorem Tx.Holds.extendLast {t : Tx} {l : List Nat} {m : Nat} (h : t.Holds (l ++ [m + 417]) (m + 417)) (g : Nat) :
    (t.extendLast tHalf (BitVec.ofNat 32 g)).Holds (l ++ [m + g]) (m + g) := by
  have hn : 0 < t.n.val := Nat.pos_of_ne_zero fun h0 => by simpa [Tx.table, h0] using h.table
  have hlt := t.n.isLt
  have hinit : t.count.toList.take (t.n.val - 1) = l.map (BitVec.ofNat 32) := by
    have hdrop := congrArg List.dropLast h.table
    rw [List.map_append, List.map_singleton, List.dropLast_concat, Tx.table, List.dropLast_eq_take, List.take_take,
      List.length_take, Vector.length_toList] at hdrop
    rw [← hdrop]
    congr 1; omega
  have hsum : t.countNow - tHalf + BitVec.ofNat 32 g = BitVec.ofNat 32 (m + g) := by
    rw [h.countNow, BitVec.ofNat_add, BitVec.ofNat_add]
    exact congrArg (· + BitVec.ofNat 32 g) (add_sub_cancel_right ..)
  rw [Tx.extendLast, dif_pos hn, hsum]
  have hk : t.n.val - 1 < 67 := by omega
  refine ⟨(table_of_set hk rfl (by simp only; omega)).trans ?_, rfl⟩
  rw [hinit, List.map_append, List.map_singleton]

/-! ### From the middle of one cell to the end of the frame -/

/-- The table is built to the end of the cell whose middle is at `m` and whose bit is `prev`: the entries `done` and the
end of the second half of that cell, which what follows may put off. -/
structure Tx.CellBuilt (t : Tx) (done : List Nat) (prev : Bool) (m : Nat) : Prop where
  holds : t.Holds (done ++ [m + 417]) (m + 417)
  levelHigh : t.levelHigh = prev

/-- An equal bit adds two halves (R107). -/
theorem Tx.CellBuilt.addBit_same {t t' : Tx} {done : List Nat} {prev : Bool} {m : Nat} (h : t.CellBuilt done prev m)
    (hb : t.addBit prev = some t') : t'.CellBuilt (done ++ [m + 417, m + 834]) prev (m + 834) := by
  obtain ⟨u, hu, rfl⟩ := Option.map_eq_some_iff.mp hb
  rw [if_neg (by simp [h.levelHigh])] at hu
  obtain ⟨v, hv, hu⟩ := Option.bind_eq_some_iff.mp hu
  have hh := ((h.holds.pushPhase hv).1.pushPhase hu).1
  exact ⟨⟨hh.table.trans (by simp), hh.countNow⟩, rfl⟩

/-- A bit that differs makes the second half of the cell before it a full phase (R107). -/
theorem Tx.CellBuilt.addBit_other {t t' : Tx} {done : List Nat} {prev b : Bool} {m : Nat}
    (h : t.CellBuilt done prev m) (hne : b ≠ prev) (hb : t.addBit b = some t') :
    t'.CellBuilt (done ++ [m + 833]) b (m + 833) := by
  obtain ⟨u, hu, rfl⟩ := Option.map_eq_some_iff.mp hb
  rw [if_pos (by rw [h.levelHigh]; exact Bool.not_eq.mpr hne)] at hu
  obtain ⟨ht, hc⟩ := ((h.holds.extendLast 833).pushPhase hu).1
  exact ⟨⟨ht, hc⟩, rfl⟩

/-- The stop condition is the end of the waveform (R109). -/
theorem Tx.CellBuilt.stopCondition {t t' : Tx} {done : List Nat} {prev : Bool} {m : Nat} (h : t.CellBuilt done prev m)
    (hs : t.stopCondition = some t') : t'.table = (done ++ waveform prev m []).map (BitVec.ofNat 32) := by
  unfold Tx.stopCondition at hs
  rw [h.levelHigh] at hs
  cases prev
  case true =>
    cases hs
    exact (h.holds.extendLast 2450).table
  case false =>
    rw [(h.holds.pushPhase hs).1.table]
    simp [waveform]

/-- The data bits and the stop condition add the rest of the waveform (R108). -/
theorem Tx.CellBuilt.table_of_addBits {data : Word} {k : Nat} {t u t' : Tx} {done : List Nat} {prev : Bool} {m : Nat}
    (h : t.CellBuilt done prev m) (hb : Tx.addBits data k t = some u) (hs : u.stopCondition = some t') :
    t'.table = (done ++ waveform prev m (sentBits data k)).map (BitVec.ofNat 32) := by
  induction k generalizing t done prev m with
  | zero => cases hb; exact h.stopCondition hs
  | succ k ih =>
    obtain ⟨v, hv, hb⟩ := Option.bind_eq_some_iff.mp hb
    by_cases hp : data.getLsbD k = prev
    · rw [hp] at hv
      rw [ih (h.addBit_same hv) hb, List.append_assoc, sentBits, waveform, if_pos hp, hp]
      rfl
    · rw [ih (h.addBit_other hp hv) hb, List.append_assoc, sentBits, waveform, if_neg hp]
      rfl

/-- The start bit is a bit 1 whose middle is at 417 µs (R108). -/
theorem cellBuilt_startBit {t t' : Tx} (h : t.startBit = some t') : t'.CellBuilt [417] true 417 := by
  obtain ⟨u, hu, rfl⟩ := Option.map_eq_some_iff.mp h
  obtain ⟨v, hv, hu⟩ := Option.bind_eq_some_iff.mp hu
  have hclear : t.clearTable.Holds [] 0 := ⟨by simp [Tx.table], rfl⟩
  obtain ⟨ht, hc⟩ := ((hclear.pushPhase hv).1.pushPhase hu).1
  exact ⟨⟨ht, hc⟩, rfl⟩

/-- The table of a frame is its waveform (R101, R108). -/
theorem encodeFrame_table {t t' : Tx} {k : FrameKind} {length : Nat} {data : Word} (hk : k ≠ .corrupt)
    (h : t.encodeFrame k length data = some t') :
    t'.table = (417 :: waveform true 417 (sentBits data length)).map (BitVec.ofNat 32) := by
  obtain ⟨u, hu, h⟩ := Option.bind_eq_some_iff.mp h
  obtain ⟨v, hv, h⟩ := Option.bind_eq_some_iff.mp h
  rw [if_neg hk] at hv
  exact (cellBuilt_startBit hu).table_of_addBits hv h

end Sys2Proof.Machine
end

section
/-! A receiver decodes the waveform of a frame (20_memory.md R42, 40_timing_tables.md R97, 42_receiver.md R145 to
R149). -/

namespace Sys2Proof.Machine

open Sys2Proof

/-! ### The edges of a waveform -/

theorem waveform_ne_nil (prev : Bool) (m : Nat) (bs : List Bool) : waveform prev m bs ≠ [] := by
  cases bs
  case nil => cases prev <;> simp [waveform]
  case cons b bs => unfold waveform; split <;> simp

/-- The times of the edges after the middle of a cell: the end of the stop condition is none. -/
def edgeTimes (prev : Bool) (m : Nat) (bs : List Bool) : List Word :=
  (waveform prev m bs).dropLast.map (BitVec.ofNat 32)

theorem edgeTimes_nil (prev : Bool) (m : Nat) :
    edgeTimes prev m [] = if prev then [] else [BitVec.ofNat 32 (m + 417)] := by
  cases prev <;> rfl

theorem edgeTimes_cons_same (prev : Bool) (m : Nat) (bs : List Bool) : edgeTimes prev m (prev :: bs) =
    BitVec.ofNat 32 (m + 417) :: BitVec.ofNat 32 (m + 834) :: edgeTimes prev (m + 834) bs := by
  simp [edgeTimes, waveform, List.dropLast_cons_of_ne_nil, waveform_ne_nil]

theorem edgeTimes_cons_other {prev b : Bool} (h : b ≠ prev) (m : Nat) (bs : List Bool) :
    edgeTimes prev m (b :: bs) = BitVec.ofNat 32 (m + 833) :: edgeTimes b (m + 833) bs := by
  simp [edgeTimes, waveform, h, List.dropLast_cons_of_ne_nil, waveform_ne_nil]

/-! ### How long an edge seems to have taken -/

/-- The rise and the fall delay differ by at most 91 µs (40_timing_tables.md R97). -/
def State.NearDelays (s : State) : Prop :=
  (s.params.rxRiseUs : Int) - s.params.rxFallUs ≤ 91 ∧ (s.params.rxFallUs : Int) - s.params.rxRiseUs ≤ 91

/-- The corrected elapsed time is then at most 91 µs off (42_receiver.md R144). -/
theorem correctedElapsed_near {s : State} (hp : s.NearDelays) {start : Word} {m d : Nat} (hd : d < 2 ^ 32)
    (hl : s.rx.lastEdge = start + BitVec.ofNat 32 m) (level : Level) :
    (d : Int) - 91 ≤ s.correctedElapsed (start + BitVec.ofNat 32 (m + d)) level ∧
      s.correctedElapsed (start + BitVec.ofNat 32 (m + d)) level ≤ d + 91 := by
  have helapsed : (start + BitVec.ofNat 32 (m + d) - s.rx.lastEdge).toNat = d := by
    rw [hl, BitVec.ofNat_add, ← add_assoc, add_sub_cancel_left, BitVec.toNat_ofNat, Nat.mod_eq_of_lt hd]
  obtain ⟨hrise, hfall⟩ := hp
  rw [correctedElapsed_eq, spelledElapsed, helapsed]
  cases level <;> simp only [if_true, Bool.false_eq_true, if_false] <;> omega

/-! ### What an edge in one of the windows does -/

theorem startBitStartEdge_of_half {ec : Int} (h : 325 ≤ ec ∧ ec ≤ 508) (s : State) :
    startBitStartEdge ec s = { s with rx.state := .startBitInside } := if_pos ((inWindow_wBegin ec).mpr h)

theorem insideEdge_of_half {ec : Int} (h : 325 ≤ ec ∧ ec ≤ 508) (s : State) :
    insideEdge ec s = { s with rx.state := .dataBitStart } := if_pos ((inWindow_wHalf ec).mpr h)

theorem insideEdge_of_full {ec : Int} (h : 658 ≤ ec ∧ ec ≤ 1008) (s : State) :
    insideEdge ec s = captureBit (!s.rx.lastBit) { s with rx.lastBit := !s.rx.lastBit } := by
  have hhalf : ¬inWindow ec wHalf = true := by rw [inWindow_wHalf]; omega
  rw [insideEdge, if_neg hhalf, if_pos ((inWindow_wFull ec).mpr h)]

theorem dataBitStartEdge_of_half {ec : Int} (h : 325 ≤ ec ∧ ec ≤ 508) (s : State) :
    dataBitStartEdge ec s = captureBit s.rx.lastBit s := if_pos ((inWindow_wHalf ec).mpr h)

/-- The decoder has seen the edge in the middle of a cell. -/
def RxState.midCell (r : RxState) : Prop := r = .startBitInside ∨ r = .dataBitInside

theorem RxState.midCell.decoding {r : RxState} (h : r.midCell) : r.decoding = true := by
  obtain rfl | rfl := h <;> rfl

theorem rxEdge_of_midCell {s : State} (h : s.rx.state.midCell) (c : Word) (level : Level) :
    rxEdge c level s = insideEdge (s.correctedElapsed c level) (acceptEdge c s) := by
  obtain h | h := h <;> simp [rxEdge, h]

/-! ### The edges of a frame, one after the other -/

/-- `s` is `s₀` after the edges of a frame up to the one at `start + m`: `length` bits are gathered, with the value
`data`, and the decoder is in a cell of the bit `bit`. -/
structure State.Heard (s₀ s : State) (start : Word) (m : Nat) (bit : Bool) (length : Nat) (data : Word) : Prop where
  params : s.params = s₀.params
  q : s.q = s₀.q
  lastEdge : s.rx.lastEdge = start + BitVec.ofNat 32 m
  lastBit : s.rx.lastBit = bit
  frame : s.rx.frame = ⟨s₀.tx.armed, false, .ok, length, data, s₀.nowMs⟩

/-- The number `d` with one more bit, the next less significant one (20_memory.md R42). -/
abbrev withBit (d : Word) (b : Bool) : Word := (d <<< 1) ||| (BitVec.ofBool b).setWidth 32

section
variable {s₀ s : State} {start : Word} {m : Nat} {bit : Bool} {length : Nat} {data : Word}

theorem State.Heard.elapsed (h : s₀.Heard s start m bit length data) (hp : s₀.NearDelays) {d : Nat} (hd : d < 2 ^ 32)
    (level : Level) : (d : Int) - 91 ≤ s.correctedElapsed (start + BitVec.ofNat 32 (m + d)) level ∧
      s.correctedElapsed (start + BitVec.ofNat 32 (m + d)) level ≤ d + 91 := by
  have hp' : s.NearDelays := by rw [State.NearDelays, h.params]; exact hp
  exact correctedElapsed_near hp' hd h.lastEdge level

/-- An edge 417 µs after the last one is in the windows of a half cell. -/
theorem State.Heard.elapsed_half (h : s₀.Heard s start m bit length data) (hp : s₀.NearDelays) (level : Level) :
    325 ≤ s.correctedElapsed (start + BitVec.ofNat 32 (m + 417)) level ∧
      s.correctedElapsed (start + BitVec.ofNat 32 (m + 417)) level ≤ 508 := by
  have := h.elapsed hp (d := 417) (by decide) level
  omega

/-- One 833 µs after it is in the window of a full cell. -/
theorem State.Heard.elapsed_full (h : s₀.Heard s start m bit length data) (hp : s₀.NearDelays) (level : Level) :
    658 ≤ s.correctedElapsed (start + BitVec.ofNat 32 (m + 833)) level ∧
      s.correctedElapsed (start + BitVec.ofNat 32 (m + 833)) level ≤ 1008 := by
  have := h.elapsed hp (d := 833) (by decide) level
  omega

theorem State.Heard.acceptEdge (h : s₀.Heard s start m bit length data) (m' : Nat) :
    s₀.Heard (acceptEdge (start + BitVec.ofNat 32 m') s) start m' bit length data :=
  ⟨h.params, h.q, rfl, h.lastBit, h.frame⟩

theorem State.Heard.enter (h : s₀.Heard s start m bit length data) (r : RxState) :
    s₀.Heard { s with rx.state := r } start m bit length data := ⟨h.params, h.q, h.lastEdge, h.lastBit, h.frame⟩

theorem State.Heard.setLastBit (h : s₀.Heard s start m bit length data) (b : Bool) :
    s₀.Heard { s with rx.lastBit := b } start m b length data := ⟨h.params, h.q, h.lastEdge, rfl, h.frame⟩

/-- A captured bit is appended to the frame in progress while there is room (R149). -/
theorem State.Heard.captureBit (h : s₀.Heard s start m bit length data) (hlen : length < 32) (b : Bool) :
    s₀.Heard (captureBit b s) start m bit (length + 1) (withBit data b) ∧
      (captureBit b s).rx.state = .dataBitInside := by
  have hshort : s.rx.frame.length < 32 := by rw [h.frame]; exact hlen
  obtain ⟨hfull, -⟩ | ⟨-, hc⟩ := captureBit_cases b s
  · omega
  · rw [hc]
    exact ⟨⟨h.params, h.q, h.lastEdge, h.lastBit, by simp only [h.frame]⟩, rfl⟩

/-- The edge in the middle of the start bit (R145). -/
theorem State.Heard.startBitEdge (h : s₀.Heard s start m bit length data) (hp : s₀.NearDelays)
    (hs : s.rx.state = .startBitStart) (level : Level) :
    s₀.Heard (rxEdge (start + BitVec.ofNat 32 (m + 417)) level s) start (m + 417) bit length data ∧
      (rxEdge (start + BitVec.ofNat 32 (m + 417)) level s).rx.state.midCell := by
  simp only [rxEdge, hs, startBitStartEdge_of_half (h.elapsed_half hp level)]
  exact ⟨(h.acceptEdge _).enter _, .inl rfl⟩

/-- An edge half a cell after the middle of one is on the cell boundary (R146, R148). -/
theorem State.Heard.boundaryEdge (h : s₀.Heard s start m bit length data) (hp : s₀.NearDelays)
    (hs : s.rx.state.midCell) (level : Level) :
    s₀.Heard (rxEdge (start + BitVec.ofNat 32 (m + 417)) level s) start (m + 417) bit length data ∧
      (rxEdge (start + BitVec.ofNat 32 (m + 417)) level s).rx.state = .dataBitStart := by
  rw [rxEdge_of_midCell hs, insideEdge_of_half (h.elapsed_half hp level)]
  exact ⟨(h.acceptEdge _).enter _, rfl⟩

/-- An edge half a cell after a boundary is one more bit, equal to the one before (R147). -/
theorem State.Heard.sameBitEdge (h : s₀.Heard s start m bit length data) (hp : s₀.NearDelays)
    (hs : s.rx.state = .dataBitStart) (hlen : length < 32) (level : Level) :
    s₀.Heard (rxEdge (start + BitVec.ofNat 32 (m + 417)) level s) start (m + 417) bit (length + 1) (withBit data bit) ∧
      (rxEdge (start + BitVec.ofNat 32 (m + 417)) level s).rx.state.midCell := by
  simp only [rxEdge, hs, dataBitStartEdge_of_half (h.elapsed_half hp level), acceptEdge_rx_lastBit, h.lastBit]
  obtain ⟨hc, hst⟩ := (h.acceptEdge (m + 417)).captureBit hlen bit
  exact ⟨hc, .inr hst⟩

/-- An edge a full cell after the middle of one is one more bit, the other one (R146, R148). -/
theorem State.Heard.otherBitEdge (h : s₀.Heard s start m bit length data) (hp : s₀.NearDelays)
    (hs : s.rx.state.midCell) (hlen : length < 32) (level : Level) :
    s₀.Heard (rxEdge (start + BitVec.ofNat 32 (m + 833)) level s) start (m + 833) (!bit) (length + 1)
        (withBit data (!bit)) ∧
      (rxEdge (start + BitVec.ofNat 32 (m + 833)) level s).rx.state.midCell := by
  rw [rxEdge_of_midCell hs, insideEdge_of_full (h.elapsed_full hp level), acceptEdge_rx_lastBit, h.lastBit]
  obtain ⟨hc, hst⟩ := ((h.acceptEdge (m + 833)).setLastBit (!bit)).captureBit hlen (!bit)
  exact ⟨hc, .inr hst⟩

end

/-- The bits down to bit `k` are those down to bit `k + 1` and bit `k`. -/
theorem withBit_ushiftRight (d : Word) (k : Nat) : withBit (d >>> (k + 1)) (d.getLsbD k) = d >>> k := by
  ext i hi
  cases i
  case zero => simp
  case succ i => simp [Nat.add_left_comm, Nat.add_comm]

/-- All bits of a frame are gathered, without an error. -/
structure State.Gathered (s₀ s : State) (length : Nat) (data : Word) : Prop where
  q : s.q = s₀.q
  decoding : s.rx.state.decoding = true
  frame : s.rx.frame = ⟨s₀.tx.armed, false, .ok, length, data, s₀.nowMs⟩

/-- From the middle of a cell on, the edges of the bits `data[k-1]` down to `data[0]` and of the stop condition gather
these bits (R42, R97). -/
theorem State.Heard.playEdges {s₀ s : State} {start : Word} {m k length : Nat} {bit : Bool} {data : Word}
    (h : s₀.Heard s start m bit length (data >>> k)) (hp : s₀.NearDelays) (hs : s.rx.state.midCell)
    (hlen : length + k ≤ 32) :
    s₀.Gathered (playEdges start bit (edgeTimes bit m (sentBits data k)) s) (length + k) data := by
  induction k generalizing s m bit length with
  | zero =>
    rw [sentBits, edgeTimes_nil]
    rw [BitVec.ushiftRight_zero] at h
    cases bit
    case true => exact ⟨h.q, hs.decoding, h.frame⟩
    case false =>
      obtain ⟨hb, hst⟩ := h.boundaryEdge hp hs false
      exact ⟨hb.q, congrArg RxState.decoding hst, hb.frame⟩
  | succ k ih =>
    rw [sentBits, Nat.add_comm k 1, ← Nat.add_assoc]
    by_cases hbit : data.getLsbD k = bit
    · subst hbit
      obtain ⟨hb, hst⟩ := h.boundaryEdge hp hs (data.getLsbD k)
      obtain ⟨hc, hmid⟩ := hb.sameBitEdge hp hst (by omega) (!data.getLsbD k)
      rw [withBit_ushiftRight] at hc
      rw [edgeTimes_cons_same]
      simpa [Machine.playEdges] using ih hc hmid (by omega)
    · obtain ⟨hc, hmid⟩ := h.otherBitEdge hp hs (by omega) bit
      have hnot : data.getLsbD k = !bit := Bool.eq_not.mpr hbit
      rw [← hnot, withBit_ushiftRight] at hc
      rw [edgeTimes_cons_other hbit, Machine.playEdges, ← hnot]
      exact ih hc hmid (by omega)

/-- The falling edge that starts a frame (R142). -/
theorem heard_startEdge {s : State} (h : s.rx.state = .idle ∨ s.rx.state = .interFrameIdle) (start : Word) :
    s.Heard (rxEdge (start + 0) true s) start 0 true 0 0 ∧ (rxEdge (start + 0) true s).rx.state = .startBitStart := by
  have he : rxEdge (start + 0) true s = startEdge (acceptEdge (start + 0) s) := by
    obtain h | h := h <;> simp [rxEdge, h]
  rw [he]
  exact ⟨⟨rfl, rfl, rfl, rfl, rfl⟩, rfl⟩

/-- The receiver gathers the bits of a table it hears from a quiet bus. -/
theorem gathered_hearTable {s : State} {tx t : Tx} {k : FrameKind} {length : Nat} {data : Word} (start : Word)
    (hs : s.rx.state = .idle ∨ s.rx.state = .interFrameIdle) (hk : k ≠ .corrupt) (hlen : length ≤ 32)
    (hdata : data.toNat < 2 ^ length) (hp : s.NearDelays) (ht : tx.encodeFrame k length data = some t) :
    s.Gathered (hearTable start t s) length data := by
  obtain ⟨h0, hst⟩ := heard_startEdge hs start
  obtain ⟨h1, hmid⟩ := h0.startBitEdge hp hst false
  have hnone : data >>> length = 0 := by
    apply BitVec.eq_of_toNat_eq
    rw [BitVec.toNat_ushiftRight, Nat.shiftRight_eq_div_pow, Nat.div_eq_of_lt hdata]
    rfl
  have hg := State.Heard.playEdges (data := data) (k := length) (by rwa [hnone]) hp hmid (by omega)
  have hedges : t.table.dropLast = BitVec.ofNat 32 417 :: edgeTimes true 417 (sentBits data length) := by
    rw [encodeFrame_table hk ht, ← List.map_dropLast, List.dropLast_cons_of_ne_nil (waveform_ne_nil _ _ _),
      List.map_cons, edgeTimes]
  rw [hearTable, hedges]
  simpa [Machine.playEdges] using hg

/-! ### The end of the frame -/

/-- Edges write neither the parameters nor the inputs nor the transmitter, so they do not change the bus level. -/
theorem playEdges_keeps (start : Word) (level : Level) (counts : List Word) (s : State) :
    (playEdges start level counts s).tx = s.tx ∧ s.SameOutside (playEdges start level counts s) := by
  induction counts generalizing level s with
  | nil => simp [playEdges]
  | cons c cs ih =>
    obtain ⟨htx, hp, he, hr⟩ := ih (!level) (rxEdge (start + c) level s)
    obtain ⟨htx', hp', he', hr'⟩ := rxEdge_keeps (start + c) level s
    exact ⟨htx.trans htx', hp.trans hp', he.trans he', hr.trans hr'⟩

theorem hearTable_lineActive (start : Word) (t : Tx) (s : State) :
    (hearTable start t s).lineActive = s.lineActive := by
  obtain ⟨htx, hp, he, -⟩ := playEdges_keeps start true (0 :: t.table.dropLast) s
  rw [hearTable, State.lineActive, State.lineActive, htx, hp, he]

theorem hearTable_params (start : Word) (t : Tx) (s : State) : (hearTable start t s).params = s.params :=
  (playEdges_keeps start true (0 :: t.table.dropLast) s).2.1

@[simp] theorem rxScheduleTransmission_q (s : State) : (rxScheduleTransmission s).q = s.q := by
  obtain ⟨e, ⟨-, h⟩ | ⟨c, h⟩⟩ := rxScheduleTransmission_cases s <;> simp [h]

/-- The settling window and what is scheduled in it leave the queue as it is. -/
@[simp] theorem scheduleSettlingTimeout_q (s : State) : (scheduleSettlingTimeout s).q = s.q := by
  obtain ⟨-, h⟩ | ⟨-, h⟩ | ⟨-, -, -, h⟩ := scheduleSettlingTimeout_cases s <;> simp [h]

/-- A stop match with the line idle completes the frame that is being decoded (R160, R161). -/
theorem rxStopbitMatch_of_decoding {s : State} (hd : s.rx.state.decoding = true) (hl : s.lineActive = false) :
    rxStopbitMatch s = completeFrame { s with stopCmp.armed := false } := by
  unfold rxStopbitMatch
  cases hs : s.rx.state
  case startBitStart | startBitInside | dataBitStart | dataBitInside => simp [hl]
  all_goals simp [hs, RxState.decoding] at hd

/-- While there is room in the queue, a completed frame is appended to it (R161, R211). -/
theorem completeFrame_items {s : State} (hroom : s.q.items.length < s.params.queueDepth) :
    (completeFrame s).q.items = s.q.items ++ [completedFrame s] := by
  simp [completeFrame, enqueue_q, hroom]

/-- Settles O42: the table is the waveform, each of whose edges, 417 or 833 µs after the one before, falls into its
window, so that the decoder gathers the bits that were sent and the stop match queues them. -/
theorem receiverHearsWhatTheTransmitterSends : Obligations.ReceiverHearsWhatTheTransmitterSends := by
  intro s tx t k length data start hs hk hlen hdata hrise hfall hline hroom ht
  have hg := gathered_hearTable start hs hk hlen hdata ⟨hrise, hfall⟩ ht
  have hidle : (hearTable start t s).lineActive = false := (hearTable_lineActive start t s).trans hline
  have hroom' : (hearTable start t s).q.items.length < (hearTable start t s).params.queueDepth := by
    rwa [hg.q, hearTable_params]
  refine ⟨hg.q, _, completedFrame (hearTable start t s), rfl, ?_, ?_⟩
  · rw [rxStopbitMatch_of_decoding hg.decoding hidle, ← hg.q]
    exact completeFrame_items hroom'
  · simp [completedFrame, hg.frame]

end Sys2Proof.Machine
end

section
/-! What the operations leave unchanged in the other halves of the block (20_memory.md R47, R51). -/

namespace Sys2Proof.Machine

open Sys2Proof

/-! ### TX_MATCH -/

/-- `t` differs from `s` at most in what a `TX_MATCH` writes (R120, R121, R122). -/
def State.TransmitsTo (s t : State) : Prop :=
  t = { s with
    tx := { s.tx with
      index := t.tx.index, toggleOnMatch := t.tx.toggleOnMatch, running := t.tx.running, armed := t.tx.armed,
      line := t.tx.line }
    queryCmp := t.queryCmp }

theorem exhaust_transmitsTo (s : State) : s.TransmitsTo (exhaust s) := by
  unfold exhaust armQuery; dsimp only; split <;> rfl

theorem txMatch_transmitsTo (s : State) : s.TransmitsTo (txMatch s) := by
  unfold txMatch
  split
  · split
    · rfl
    · exact exhaust_transmitsTo s
  · rfl

theorem armQuery_of_not_query {s : State} (hk : s.tx.kind ≠ .query) : armQuery s = s := by
  unfold armQuery
  split
  · contradiction
  all_goals rfl

/-- Only a query's table sets the query compare (R122). -/
theorem txMatch_queryCmp {s : State} (hk : s.tx.kind ≠ .query) : (txMatch s).queryCmp = s.queryCmp := by
  unfold txMatch
  split
  · split
    · rfl
    · rw [exhaust, armQuery_of_not_query (by exact hk)]
  · rfl

/-- Settles O57: by the frame of `TX_MATCH`, and by O28, for it is none of the operations that set `tx.armed`. -/
theorem txMatchTouchesOnlyItsOwnState : Obligations.TxMatchTouchesOnlyItsOwnState := by
  intro s t hinv he
  cases he
  refine ⟨txMatch_transmitsTo s, fun ht => ?_, txMatch_queryCmp⟩
  by_contra ha
  obtain h | ⟨_, _, _, _, _, h⟩ :=
    (armedIsSetAndClearedByItsRules .txMatch s _ hinv rfl).1 (Bool.not_eq_true _ ▸ ha) ht <;> cases h

/-! ### An armed table -/

theorem seqStart_of_armed {s : State} (ha : s.tx.armed = true) : (seqStart s).tx = s.tx := by simp [seqStart, ha]

theorem seqNext_of_armed {s : State} (ha : s.tx.armed = true) (periodUs : Word) :
    (seqNext periodUs s).tx = s.tx := by simp [seqNext, ha]

/-- While the transmitter is armed, the commands are refused, and a start, an entry or a repeat write nothing of the
table and its type. -/
theorem exec_sameTable_of_armed {i : Instr} {s t : State} (ha : s.tx.armed = true) (hi : i ≠ .reset)
    (hi' : i ≠ .txMatch) (he : exec i s = .next t) : s.tx.SameTable t.tx := by
  have same {t : Tx} (h : t = s.tx) : s.tx.SameTable t := by rw [h]; rfl
  cases i <;> cases he
  case send => exact same (send_of_armed ha ..)
  case seqStart => exact same (seqStart_of_armed ha)
  case seqNext => exact same (seqNext_of_armed ha _)
  case seqExecute => exact same (seqExecute_of_armed ha)
  case rxStopbitMatch => exact rxStopbitMatch_sameTable s
  case rxPeriodMatch => exact rxPeriodMatch_sameTable s
  case txMatch | reset => contradiction
  all_goals exact same (by simp)

/-- Settles O27: a `TX_MATCH` writes neither the table nor its type, and no other operation does while it is armed. -/
theorem armedTableIsNotWritten : Obligations.ArmedTableIsNotWritten := by
  intro i s t ha hi he
  by_cases hm : i = .txMatch
  · cases hm
    cases he
    rw [txMatch_transmitsTo s]
    exact ⟨rfl, rfl, rfl, rfl, rfl⟩
  · rw [exec_sameTable_of_armed ha hi hm he]
    exact ⟨rfl, rfl, rfl, rfl, rfl⟩

end Sys2Proof.Machine
end

section
/-! What an edge, a command and a receive match leave unchanged of the other half of the block (20_memory.md R47,
42_receiver.md R140, R160, R166, R167, 43_scheduler.md R195). -/

namespace Sys2Proof.Machine

open Sys2Proof

/-! ### RX_EDGE -/

/-- `t` differs from `s` in the receiver at most in what decoding writes, and not in the period and query compares
(R140). -/
structure State.DecodesTo (s t : State) : Prop where
  rx : t.rx = { s.rx with
    state := t.rx.state, frame := t.rx.frame, lastBit := t.rx.lastBit, lastEdge := t.rx.lastEdge }
  periodCmp : t.periodCmp = s.periodCmp
  queryCmp : t.queryCmp = s.queryCmp

theorem captureBit_decodesTo (b : Bool) (s : State) : s.DecodesTo (captureBit b s) := by
  obtain ⟨-, h⟩ | ⟨-, h⟩ := captureBit_cases b s <;> rw [h] <;> exact ⟨rfl, rfl, rfl⟩

theorem startBitStartEdge_decodesTo (ec : Int) (s : State) : s.DecodesTo (startBitStartEdge ec s) := by
  unfold startBitStartEdge; split <;> exact ⟨rfl, rfl, rfl⟩

theorem insideEdge_decodesTo (ec : Int) (s : State) : s.DecodesTo (insideEdge ec s) := by
  unfold insideEdge
  split
  · exact ⟨rfl, rfl, rfl⟩
  · split
    · obtain ⟨hrx, hp, hq⟩ := captureBit_decodesTo (!s.rx.lastBit) { s with rx.lastBit := !s.rx.lastBit }
      exact ⟨hrx, hp, hq⟩
    · exact ⟨rfl, rfl, rfl⟩

theorem dataBitStartEdge_decodesTo (ec : Int) (s : State) : s.DecodesTo (dataBitStartEdge ec s) := by
  unfold dataBitStartEdge
  split
  · exact captureBit_decodesTo _ s
  · exact ⟨rfl, rfl, rfl⟩

/-- Outside `Idle` and `InterFrameIdle` an edge only decodes. -/
theorem rxEdge_decodesTo {s : State} (h : s.rx.state ≠ .idle) (h' : s.rx.state ≠ .interFrameIdle) (c : Word)
    (level : Level) : s.DecodesTo (rxEdge c level s) := by
  have accepted {t : State} (ht : (acceptEdge c s).DecodesTo t) : s.DecodesTo t := ⟨ht.rx, ht.periodCmp, ht.queryCmp⟩
  unfold rxEdge
  dsimp only
  split
  case h_1 hs | h_2 hs => contradiction
  case h_3 => exact accepted (startBitStartEdge_decodesTo ..)
  case h_4 | h_6 => exact accepted (insideEdge_decodesTo ..)
  case h_5 => exact accepted (dataBitStartEdge_decodesTo ..)
  case h_7 => exact ⟨rfl, rfl, rfl⟩
  case h_8 | h_9 => split <;> exact ⟨rfl, rfl, rfl⟩

/-- In these two states it starts a frame, or has no effect (R142, R143). -/
theorem rxEdge_quiet_cases {s : State} (h : s.rx.state = .idle ∨ s.rx.state = .interFrameIdle) (c : Word)
    (level : Level) : rxEdge c level s = startEdge (acceptEdge c s) ∨ rxEdge c level s = s := by
  obtain h | h := h <;> cases level <;> simp [rxEdge, h]

/-- Settles O55: by the two kinds of receiver states; a start edge disarms the period and query compares, but leaves
their counts. -/
theorem edgesLeaveTheTransmitterAlone : Obligations.EdgesLeaveTheTransmitterAlone := by
  intro c level s t he
  cases he
  obtain ⟨htx, hp, henv, hr⟩ := rxEdge_keeps c level s
  refine ⟨htx, hp, henv, hr, ?_⟩
  by_cases hq : s.rx.state = .idle ∨ s.rx.state = .interFrameIdle
  · have hquiet {p : Prop} : s.rx.state ≠ .idle → s.rx.state ≠ .interFrameIdle → p :=
      fun hi hi' => absurd hq (not_or.mpr ⟨hi, hi'⟩)
    obtain h | h := rxEdge_quiet_cases hq c level
    · rw [h]; exact ⟨rfl, rfl, rfl, hquiet⟩
    · rw [h]; exact ⟨rfl, rfl, rfl, hquiet⟩
  · obtain ⟨hi, hi'⟩ := not_or.mp hq
    obtain ⟨hrx, hpc, hqc⟩ := rxEdge_decodesTo hi hi' c level
    exact ⟨hrx, congrArg _ hpc, congrArg _ hqc, fun _ _ => ⟨hpc, hqc⟩⟩

/-! ### Commands -/

/-- `t` differs from `s` in the receiver at most in what the scheduler writes to let a transmission wait, and not in
the stop and query compares (R191). -/
structure State.SameButWaiting (s t : State) : Prop where
  rx : t.rx = { s.rx with pendingTx := t.rx.pendingTx, endIfi := t.rx.endIfi }
  stopCmp : t.stopCmp = s.stopCmp
  queryCmp : t.queryCmp = s.queryCmp

/-- `t` has the receiver of `s` and its three compares. -/
structure State.SameReceiver (s t : State) : Prop where
  rx : t.rx = s.rx
  stopCmp : t.stopCmp = s.stopCmp
  periodCmp : t.periodCmp = s.periodCmp
  queryCmp : t.queryCmp = s.queryCmp

theorem State.SameReceiver.sameButWaiting {s t : State} (h : s.SameReceiver t) : s.SameButWaiting t :=
  ⟨by rw [h.rx], h.stopCmp, h.queryCmp⟩

theorem rxScheduleTransmission_sameButWaiting (s : State) : s.SameButWaiting (rxScheduleTransmission s) := by
  obtain ⟨e, ⟨-, h⟩ | ⟨c, h⟩⟩ := rxScheduleTransmission_cases s <;> rw [h] <;> exact ⟨rfl, rfl, rfl⟩

theorem armAndSchedule_sameButWaiting (k : FrameKind) (prio : Fin 8) (rep : BitVec 8) (t : Tx) (s : State) :
    s.SameButWaiting (armAndSchedule k prio rep t s) := by
  obtain ⟨hrx, hs, hq⟩ := rxScheduleTransmission_sameButWaiting { s with
    tx := { t with building := false, kind := k, prio := prio, rep := rep, armed := true } }
  exact ⟨hrx, hs, hq⟩

theorem send_sameButWaiting (kind : KindField) (prio : BitVec 4) (length rep : BitVec 8) (data : Word) (s : State) :
    s.SameButWaiting (send kind prio length rep data s) := by
  unfold send
  split
  · exact ⟨rfl, rfl, rfl⟩
  · split
    · exact ⟨rfl, rfl, rfl⟩
    · split
      · exact ⟨rfl, rfl, rfl⟩
      · exact armAndSchedule_sameButWaiting ..

theorem seqExecute_sameButWaiting (s : State) : s.SameButWaiting (seqExecute s) := by
  unfold seqExecute
  split
  · exact ⟨rfl, rfl, rfl⟩
  · exact armAndSchedule_sameButWaiting ..

theorem seqStart_sameReceiver (s : State) : s.SameReceiver (seqStart s) := by
  unfold seqStart; split <;> exact ⟨rfl, rfl, rfl, rfl⟩

theorem seqNext_sameReceiver (periodUs : Word) (s : State) : s.SameReceiver (seqNext periodUs s) := by
  unfold seqNext
  split
  · exact ⟨rfl, rfl, rfl, rfl⟩
  · split
    · exact ⟨rfl, rfl, rfl, rfl⟩
    · split <;> exact ⟨rfl, rfl, rfl, rfl⟩

theorem reqStatus_sameReceiver (s : State) : s.SameReceiver (reqStatus s) := by
  unfold reqStatus; split <;> exact ⟨rfl, rfl, rfl, rfl⟩

theorem tryReceive_sameReceiver (s : State) : s.SameReceiver (tryReceive s) := by
  unfold tryReceive; split <;> exact ⟨rfl, rfl, rfl, rfl⟩

theorem isTxIdle_sameReceiver (s : State) : s.SameReceiver (isTxIdle s) := ⟨rfl, rfl, rfl, rfl⟩

/-- `t'` differs from `t` at most in what the construction of a table writes, and of the entries in the first one that
is not valid yet (R111, R113). -/
def Tx.ConstructedFrom (t t' : Tx) : Prop :=
  t' = { t with
    count := t'.count, n := t'.n, countNow := t'.countNow, levelHigh := t'.levelHigh, building := t'.building } ∧
  ∀ j : Fin 67, j.val ≠ t.n.val → t'.entry j = t.entry j

theorem seqStart_constructedFrom (s : State) : s.tx.ConstructedFrom (seqStart s).tx := by
  unfold seqStart; split <;> exact ⟨rfl, fun _ _ => rfl⟩

theorem pushPhase_constructedFrom {t t' : Tx} {d : Word} (h : t.pushPhase d = some t') : t.ConstructedFrom t' := by
  obtain ⟨hnone, -⟩ | ⟨hn, -, hsome⟩ := pushPhase_cases t d
  · rw [hnone] at h; cases h
  · rw [hsome] at h
    cases h
    exact ⟨rfl, fun j hj => (entry_set t _ _ hn _ rfl j).trans (if_neg (Ne.symm hj))⟩

theorem seqNext_constructedFrom (periodUs : Word) (s : State) : s.tx.ConstructedFrom (seqNext periodUs s).tx := by
  unfold seqNext
  split
  · exact ⟨rfl, fun _ _ => rfl⟩
  · split
    · exact ⟨rfl, fun _ _ => rfl⟩
    · split
      · exact ⟨rfl, fun _ _ => rfl⟩
      · next t ht => exact pushPhase_constructedFrom ht

/-- `SEQ_EXECUTE` leaves the table as it was built (R115). -/
theorem seqExecute_table (s : State) :
    (seqExecute s).tx.count = s.tx.count ∧ (seqExecute s).tx.n = s.tx.n ∧
      (seqExecute s).tx.countNow = s.tx.countNow ∧ (seqExecute s).tx.levelHigh = s.tx.levelHigh := by
  unfold seqExecute
  split
  · exact ⟨rfl, rfl, rfl, rfl⟩
  · rw [armAndSchedule, rxScheduleTransmission_sameTable]
    exact ⟨rfl, rfl, rfl, rfl⟩

/-- What every command leaves of the receiver; only two of them reply. -/
theorem exec_command_frame {i : Instr} {s t : State} (hc : isCommand i) (he : exec i s = .next t) :
    s.SameButWaiting t ∧ (i ≠ .tryReceive → i ≠ .isTxIdle → t.replies = s.replies) := by
  cases i <;> cases he
  case send => exact ⟨send_sameButWaiting .., fun _ _ => (send_sameOutside ..).2.2⟩
  case seqStart => exact ⟨(seqStart_sameReceiver s).sameButWaiting, fun _ _ => (seqStart_sameOutside s).2.2⟩
  case seqNext => exact ⟨(seqNext_sameReceiver _ s).sameButWaiting, fun _ _ => (seqNext_sameOutside _ s).2.2⟩
  case seqExecute => exact ⟨seqExecute_sameButWaiting s, fun _ _ => (seqExecute_sameOutside s).2.2⟩
  case reqStatus => exact ⟨(reqStatus_sameReceiver s).sameButWaiting, fun _ _ => (reqStatus_sameOutside s).2.2⟩
  case tryReceive => exact ⟨(tryReceive_sameReceiver s).sameButWaiting, fun h _ => absurd rfl h⟩
  case isTxIdle => exact ⟨(isTxIdle_sameReceiver s).sameButWaiting, fun _ h => absurd rfl h⟩
  all_goals simp [isCommand, eventBit] at hc

/-- The three commands that only ask. -/
theorem exec_ask_frame {i : Instr} {s t : State} (hi : i = .reqStatus ∨ i = .tryReceive ∨ i = .isTxIdle)
    (he : exec i s = .next t) : t.tx = s.tx ∧ s.SameReceiver t := by
  obtain rfl | rfl | rfl := hi <;> cases he
  · exact ⟨reqStatus_tx s, reqStatus_sameReceiver s⟩
  · exact ⟨tryReceive_tx s, tryReceive_sameReceiver s⟩
  · exact ⟨isTxIdle_tx s, isTxIdle_sameReceiver s⟩

/-- The two commands that construct a table. -/
theorem exec_construct_frame {i : Instr} {s t : State} (hi : i = .seqStart ∨ ∃ p, i = .seqNext p)
    (he : exec i s = .next t) : s.tx.ConstructedFrom t.tx ∧ s.SameReceiver t := by
  obtain rfl | ⟨p, rfl⟩ := hi <;> cases he
  · exact ⟨seqStart_constructedFrom s, seqStart_sameReceiver s⟩
  · exact ⟨seqNext_constructedFrom p s, seqNext_sameReceiver p s⟩

/-- Settles O54: what all commands leave, then the commands that ask, those that construct a table, and
`SEQ_EXECUTE`. -/
theorem commandsLeaveTheReceiverAlone : Obligations.CommandsLeaveTheReceiverAlone := by
  intro i s t hc he
  obtain ⟨hp, henv, -⟩ := exec_keeps_outside he
  obtain ⟨⟨hrx, hstop, hquery⟩, hreplies⟩ := exec_command_frame hc he
  refine ⟨hrx, hstop, hquery, hp, henv, hreplies, fun hi => ?_, fun hi => ?_, fun hi => ?_⟩
  · obtain ⟨htx, hr⟩ := exec_ask_frame hi he
    exact ⟨htx, hr.rx, hr.periodCmp⟩
  · obtain ⟨⟨htx, hentry⟩, hr⟩ := exec_construct_frame hi he
    exact ⟨hr.rx, hr.periodCmp, htx, hentry⟩
  · cases hi
    cases he
    exact seqExecute_table s

/-! ### Receive matches -/

/-- `t'` is `t`, or `t` with a transmission started that was not running (R116). -/
def Tx.StartedOrSame (t t' : Tx) : Prop :=
  t' = t ∨ (t.running = false ∧ t'.running = true ∧
    t' = { t with
      running := t'.running, t0 := t'.t0, index := t'.index, toggleOnMatch := t'.toggleOnMatch, line := t'.line })

/-- A start is seen in `running`, and does not write the repeat count. -/
theorem Tx.StartedOrSame.frame {t t' : Tx} {rep : BitVec 8} (h : Tx.StartedOrSame { t with rep := rep } t') :
    t'.rep = rep ∧ (t'.running = t.running → t' = { t with rep := t'.rep }) := by
  obtain rfl | ⟨hr, hr', h⟩ := h
  · exact ⟨rfl, fun _ => rfl⟩
  · refine ⟨by rw [h], fun hrun => ?_⟩
    simp [← hrun, hr'] at hr

theorem rxScheduleTransmission_started (s : State) : s.tx.StartedOrSame (rxScheduleTransmission s).tx := by
  obtain ⟨e, ⟨hr, h⟩ | ⟨c, h⟩⟩ := rxScheduleTransmission_cases s <;> rw [h]
  · exact .inr ⟨hr, rfl, rfl⟩
  · exact .inl rfl

/-- The settling window counts one repeat down, if one is left, or none (R190, R197). -/
theorem scheduleSettlingTimeout_started (s : State) :
    ∃ rep, (rep = s.tx.rep ∨ (rep = s.tx.rep - 1 ∧ s.tx.rep ≠ 0)) ∧
      Tx.StartedOrSame { s.tx with rep := rep } (scheduleSettlingTimeout s).tx := by
  obtain ⟨-, h⟩ | ⟨-, h⟩ | ⟨-, -, hrep, h⟩ := scheduleSettlingTimeout_cases s <;> rw [h]
  · exact ⟨_, .inl rfl, .inl rfl⟩
  · exact ⟨_, .inl rfl, rxScheduleTransmission_started (openWindow s)⟩
  · refine ⟨_, .inr ⟨rfl, fun h0 => ?_⟩, rxScheduleTransmission_started _⟩
    simp [h0] at hrep

/-- `u` has the last edge, the last bit and the query compare of `s`. -/
structure State.SameEdge (s u : State) : Prop where
  lastEdge : u.rx.lastEdge = s.rx.lastEdge
  lastBit : u.rx.lastBit = s.rx.lastBit
  queryCmp : u.queryCmp = s.queryCmp

theorem rxScheduleTransmission_sameEdge (s : State) : s.SameEdge (rxScheduleTransmission s) := by
  obtain ⟨hrx, -, hq⟩ := rxScheduleTransmission_sameButWaiting s
  exact ⟨by rw [hrx], by rw [hrx], hq⟩

theorem scheduleSettlingTimeout_sameEdge (s : State) : s.SameEdge (scheduleSettlingTimeout s) := by
  obtain ⟨-, h⟩ | ⟨-, h⟩ | ⟨-, -, -, h⟩ := scheduleSettlingTimeout_cases s <;> rw [h]
  · exact ⟨rfl, rfl, rfl⟩
  · obtain ⟨he, hb, hq⟩ := rxScheduleTransmission_sameEdge (openWindow s)
    exact ⟨he, hb, hq⟩
  · obtain ⟨he, hb, hq⟩ := rxScheduleTransmission_sameEdge { openWindow s with tx := { s.tx with rep := s.tx.rep - 1 } }
    exact ⟨he, hb, hq⟩

/-- A stop match ends in a settling window or does not touch the transmitter (R160). -/
theorem rxStopbitMatch_cases (s : State) : ∃ u, (u.tx = s.tx ∧ s.SameEdge u) ∧
    (rxStopbitMatch s = u ∨ rxStopbitMatch s = scheduleSettlingTimeout u) := by
  unfold rxStopbitMatch
  dsimp only
  split <;> split
  case h_1.isFalse | h_2.isFalse | h_3.isFalse | h_4.isFalse | h_5.isFalse | h_6.isFalse | h_7.isFalse =>
    refine ⟨_, ?_, .inr rfl⟩
    exact ⟨rfl, rfl, rfl, rfl⟩
  all_goals
    refine ⟨_, ?_, .inl rfl⟩
    exact ⟨rfl, rfl, rfl, rfl⟩

theorem rxStopbitMatch_started (s : State) :
    ∃ rep, (rep = s.tx.rep ∨ (rep = s.tx.rep - 1 ∧ s.tx.rep ≠ 0)) ∧
      Tx.StartedOrSame { s.tx with rep := rep } (rxStopbitMatch s).tx := by
  obtain ⟨u, ⟨htx, -⟩, h | h⟩ := rxStopbitMatch_cases s <;> rw [h]
  · exact ⟨_, .inl rfl, .inl htx⟩
  · rw [← htx]; exact scheduleSettlingTimeout_started u

theorem rxStopbitMatch_sameEdge (s : State) : s.SameEdge (rxStopbitMatch s) := by
  obtain ⟨u, ⟨-, hu⟩, h | h⟩ := rxStopbitMatch_cases s <;> rw [h]
  · exact hu
  · obtain ⟨he, hb, hq⟩ := scheduleSettlingTimeout_sameEdge u
    exact ⟨he.trans hu.lastEdge, hb.trans hu.lastBit, hq.trans hu.queryCmp⟩

/-- What a period match leaves of the receiver and the queue (R195). -/
structure State.PeriodMatched (s t : State) : Prop where
  tx : s.tx.StartedOrSame t.tx
  rx : t.rx = { s.rx with state := t.rx.state, pendingTx := t.rx.pendingTx }
  stopCmp : t.stopCmp = s.stopCmp
  queryCmp : t.queryCmp = s.queryCmp
  q : t.q = s.q

theorem servePending_periodMatched (s : State) : s.PeriodMatched (servePending s) := by
  unfold servePending
  split
  · exact ⟨.inl rfl, rfl, rfl, rfl, rfl⟩
  · next hr => exact ⟨.inr ⟨Bool.not_eq_true _ ▸ hr, rfl, rfl⟩, rfl, rfl, rfl, rfl⟩

theorem rxPeriodMatch_periodMatched (s : State) : s.PeriodMatched (rxPeriodMatch s) := by
  have hserve : s.PeriodMatched (servePending { s with periodCmp.armed := false }) :=
    have h := servePending_periodMatched { s with periodCmp.armed := false }
    ⟨h.tx, h.rx, h.stopCmp, h.queryCmp, h.q⟩
  unfold rxPeriodMatch
  dsimp only
  split
  case h_1 | h_2 =>
    split
    · exact hserve
    · exact ⟨.inl rfl, rfl, rfl, rfl, rfl⟩
  all_goals exact ⟨.inl rfl, rfl, rfl, rfl, rfl⟩

/-- A query match only disarms its own compare, and may report (R166). -/
theorem rxQueryMatch_frame (s : State) : (rxQueryMatch s).rx = s.rx ∧ (rxQueryMatch s).stopCmp = s.stopCmp ∧
    (rxQueryMatch s).periodCmp = s.periodCmp := by
  unfold rxQueryMatch; dsimp only; split <;> exact ⟨rfl, rfl, rfl⟩

/-- Settles O56, match by match; all they do to the transmitter is to start it or to count a repeat. -/
theorem receiveMatchesLeaveTheTableAlone : Obligations.ReceiveMatchesLeaveTheTableAlone := by
  rintro i s t (rfl | rfl | rfl) he <;> cases he
  · obtain ⟨hp, henv, hr⟩ := rxStopbitMatch_sameOutside s
    obtain ⟨hedge, hbit, hq⟩ := rxStopbitMatch_sameEdge s
    obtain ⟨rep, hrep, hstarted⟩ := rxStopbitMatch_started s
    obtain ⟨rfl, hsame⟩ := hstarted.frame
    exact ⟨hp, henv, hr, hedge, hbit, rxStopbitMatch_sameTable s, hsame, hrep.imp_right fun h => ⟨rfl, h⟩,
      fun _ => hq, nofun, nofun, nofun, nofun⟩
  · obtain ⟨hp, henv, hr⟩ := rxPeriodMatch_sameOutside s
    obtain ⟨htx, hrx, hstop, hquery, hq⟩ := rxPeriodMatch_periodMatched s
    obtain ⟨hrep, hsame⟩ := Tx.StartedOrSame.frame (t := s.tx) htx
    refine ⟨hp, henv, hr, by rw [hrx], by rw [hrx], rxPeriodMatch_sameTable s, hsame, .inl hrep, fun _ => hquery,
      fun _ => hstop, fun _ => ?_, nofun, fun _ => hq⟩
    rw [hrx]
    exact ⟨rfl, rfl, rfl, rfl⟩
  · obtain ⟨hp, henv, hr⟩ := rxQueryMatch_sameOutside s
    obtain ⟨hrx, hstop, hperiod⟩ := rxQueryMatch_frame s
    have htx := rxQueryMatch_tx s
    exact ⟨hp, henv, hr, by rw [hrx], by rw [hrx], by rw [htx], fun _ => by rw [htx], .inl (by rw [htx]),
      fun h => absurd rfl h, fun _ => hstop, fun _ => by simp [hrx], fun _ => ⟨htx, hrx, hperiod⟩, nofun⟩

end Sys2Proof.Machine
end

section
/-! The command word and the frame word: their fields, and what a command word decodes to (30_encoding.md R61 to R65,
R68). -/

namespace Sys2Proof.Machine

open Sys2Proof

/-! ### The fields of a packed word -/

section
variable (op kind prio : BitVec 4) (length rep : BitVec 8) (data : BitVec 32)

@[simp] theorem opField_packCmd : opField (packCmd op kind prio length rep data) = op := by
  unfold opField packCmd
  iterate 5 rw [BitVec.extractLsb'_append_eq_of_le (by decide)]
  exact BitVec.extractLsb'_append_eq_left

@[simp] theorem kindField_packCmd : kindField (packCmd op kind prio length rep data) = kind := by
  unfold kindField packCmd
  iterate 5 rw [BitVec.extractLsb'_append_eq_of_le (by decide)]
  exact BitVec.extractLsb'_append_eq_right

@[simp] theorem prioField_packCmd : prioField (packCmd op kind prio length rep data) = prio := by
  unfold prioField packCmd
  iterate 4 rw [BitVec.extractLsb'_append_eq_of_le (by decide)]
  exact BitVec.extractLsb'_append_eq_right

@[simp] theorem lengthField_packCmd : lengthField (packCmd op kind prio length rep data) = length := by
  unfold lengthField packCmd
  iterate 2 rw [BitVec.extractLsb'_append_eq_of_le (by decide)]
  exact BitVec.extractLsb'_append_eq_right

@[simp] theorem repeatField_packCmd : repeatField (packCmd op kind prio length rep data) = rep := by
  unfold repeatField packCmd
  rw [BitVec.extractLsb'_append_eq_of_le (by decide)]
  exact BitVec.extractLsb'_append_eq_right

@[simp] theorem dataField_packCmd : dataField (packCmd op kind prio length rep data) = data :=
  BitVec.extractLsb'_append_eq_right

end

/-! ### Frame kinds (R64) -/

theorem kindOfCode_wellFormed : ∀ c : BitVec 4, (kindOfCode c).wellFormed = true := by decide

theorem kindOfCode_codeOfKind {k : KindField} (h : k.wellFormed = true) : kindOfCode (codeOfKind k) = k := by
  have reserved : ∀ c : BitVec 4, 6 ≤ c.toNat → kindOfCode c = .reserved c := by decide
  cases k
  case reserved c => exact reserved c (of_decide_eq_true h)
  all_goals rfl

/-! ### One equation of the command decoder per `op` (R62, R63) -/

section
variable {w : BitVec 64}

theorem decodeCmd_send (h : opField w = 1) : decodeCmd w =
    .ok (.send (kindOfCode (kindField w)) (prioField w) (lengthField w) (repeatField w) (dataField w)) := by
  simp [decodeCmd, h]

theorem decodeCmd_seqStart (h : opField w = 2) : decodeCmd w = .ok .seqStart := by simp [decodeCmd, h]

theorem decodeCmd_seqNext (h : opField w = 3) : decodeCmd w = .ok (.seqNext (dataField w)) := by simp [decodeCmd, h]

theorem decodeCmd_seqExecute (h : opField w = 4) : decodeCmd w = .ok .seqExecute := by simp [decodeCmd, h]

theorem decodeCmd_reqStatus (h : opField w = 5) : decodeCmd w = .ok .reqStatus := by simp [decodeCmd, h]

theorem decodeCmd_tryReceive (h : opField w = 6) : decodeCmd w = .ok .tryReceive := by simp [decodeCmd, h]

theorem decodeCmd_isTxIdle (h : opField w = 7) : decodeCmd w = .ok .isTxIdle := by simp [decodeCmd, h]

theorem decodeCmd_reserved (h : (opField w).toNat = 0 ∨ 8 ≤ (opField w).toNat) :
    decodeCmd w = .error (.reservedOp (opField w)) := by
  unfold decodeCmd
  split
  case h_8 => rfl
  all_goals omega

end

/-- Settles O1: the fields of a packed word are those it was packed from, and its `op` is the operation's; an event's
vector has one bit. -/
theorem decodeOfEncodeGivesTheOperationBack : Obligations.DecodeOfEncodeGivesTheOperationBack := by
  intro i h
  cases i
  case send kind prio length rep data =>
    have hk : kindOfCode (codeOfKind kind) = kind := kindOfCode_codeOfKind h
    exact (decodeCmd_send (opField_packCmd ..)).trans (by simp [hk])
  case seqNext periodUs => exact (decodeCmd_seqNext (opField_packCmd ..)).trans (by simp)
  case seqStart => exact decodeCmd_seqStart (opField_packCmd 2 0 0 0 0 0)
  case seqExecute => exact decodeCmd_seqExecute (opField_packCmd 4 0 0 0 0 0)
  case reqStatus => exact decodeCmd_reqStatus (opField_packCmd 5 0 0 0 0 0)
  case tryReceive => exact decodeCmd_tryReceive (opField_packCmd 6 0 0 0 0 0)
  case isTxIdle => exact decodeCmd_isTxIdle (opField_packCmd 7 0 0 0 0 0)
  case rxEdge tCap level => simp [encode, decode, decodeEvt, eventBit]
  case rxStopbitMatch | rxPeriodMatch | rxQueryMatch | txMatch | reset => rfl

/-! ### What is read of a command word -/

/-- Words that agree on some bits agree on any field within them. -/
theorem extractLsb'_eq_of_extractLsb'_eq {n a b len len' : Nat} {v w : BitVec n}
    (h : v.extractLsb' a len = w.extractLsb' a len) (hab : a ≤ b) (hlen : b + len' ≤ a + len) :
    v.extractLsb' b len' = w.extractLsb' b len' := by
  ext k hk
  have hbit := congrArg (BitVec.getLsbD · (b - a + k)) h
  simpa [BitVec.getLsbD_extractLsb', show b - a + k < len by omega, show a + (b - a + k) = b + k by omega] using hbit

theorem decodeCmd_congr {v w : BitVec 64} (hhigh : v.extractLsb' 52 12 = w.extractLsb' 52 12)
    (hlow : v.extractLsb' 0 48 = w.extractLsb' 0 48) : decodeCmd v = decodeCmd w := by
  have hop : opField v = opField w := extractLsb'_eq_of_extractLsb'_eq hhigh (by decide) (by decide)
  have hkind : kindField v = kindField w := extractLsb'_eq_of_extractLsb'_eq hhigh (by decide) (by decide)
  have hprio : prioField v = prioField w := extractLsb'_eq_of_extractLsb'_eq hhigh (by decide) (by decide)
  have hlength : lengthField v = lengthField w := extractLsb'_eq_of_extractLsb'_eq hlow (by decide) (by decide)
  have hrepeat : repeatField v = repeatField w := extractLsb'_eq_of_extractLsb'_eq hlow (by decide) (by decide)
  have hdata : dataField v = dataField w := extractLsb'_eq_of_extractLsb'_eq hlow (by decide) (by decide)
  unfold decodeCmd
  rw [hop, hkind, hprio, hlength, hrepeat, hdata]

theorem decodeCmd_wellFormed {w : BitVec 64} {i : Instr} (h : decodeCmd w = .ok i) : i.wellFormed = true := by
  unfold decodeCmd at h
  split at h <;> cases h
  · exact kindOfCode_wellFormed _
  all_goals rfl

/-- Settles O2: by the fields outside bits 51:48, and by the decoder's equation for each `op`. -/
theorem commandDecodingReadsOnlyItsFields : Obligations.CommandDecodingReadsOnlyItsFields := by
  refine fun w => ⟨fun i h => ⟨decodeCmd_wellFormed h, decodeCmd_isCommand h⟩, fun w' => ⟨decodeCmd_congr, ?_, ?_⟩⟩
  · rintro op (rfl | rfl | rfl | rfl | rfl) h h'
    · rw [decodeCmd_seqStart h, decodeCmd_seqStart h']
    · rw [decodeCmd_seqExecute h, decodeCmd_seqExecute h']
    · rw [decodeCmd_reqStatus h, decodeCmd_reqStatus h']
    · rw [decodeCmd_tryReceive h, decodeCmd_tryReceive h']
    · rw [decodeCmd_isTxIdle h, decodeCmd_isTxIdle h']
  · intro h h' hdata
    rw [decodeCmd_seqNext h, decodeCmd_seqNext h', dataField, hdata, ← dataField]

/-- Settles O3: by evaluating the decoders on the words of V30. -/
theorem specWordsDecode : Obligations.SpecWordsDecode := ⟨rfl, rfl, rfl, rfl, rfl, rfl, rfl, rfl, rfl⟩

/-! ### A reserved `op` -/

theorem decodeCmd_ok_iff (w : BitVec 64) :
    (∃ i, decodeCmd w = .ok i) ↔ 1 ≤ (opField w).toNat ∧ (opField w).toNat ≤ 7 := by
  constructor
  · rintro ⟨i, hi⟩
    by_contra hop
    cases hi.symm.trans (decodeCmd_reserved (by omega))
  · have ops : ∀ op : BitVec 4, 1 ≤ op.toNat ∧ op.toNat ≤ 7 →
        op = 1 ∨ op = 2 ∨ op = 3 ∨ op = 4 ∨ op = 5 ∨ op = 6 ∨ op = 7 := by decide
    intro hop
    obtain h | h | h | h | h | h | h := ops _ hop
    · exact ⟨_, decodeCmd_send h⟩
    · exact ⟨_, decodeCmd_seqStart h⟩
    · exact ⟨_, decodeCmd_seqNext h⟩
    · exact ⟨_, decodeCmd_seqExecute h⟩
    · exact ⟨_, decodeCmd_reqStatus h⟩
    · exact ⟨_, decodeCmd_tryReceive h⟩
    · exact ⟨_, decodeCmd_isTxIdle h⟩

/-- With no event left, a word that selects no operation is taken (R63). -/
theorem fetch_of_badCommand {s : State} {w : BitVec 64} {rest : List (BitVec 64)} {d : DecodeError}
    (h : decodeEvt (maskInput s.eventInput s.env.phase.mask) = .error .noEvent) (hc : s.env.cmds = w :: rest)
    (hd : decodeCmd w = .error d) : fetch s = .noCommand (takeCommand rest s) := by
  simp [fetch, h, hc, fetchCommand, hd]

/-- Settles O8: the decoder rejects a reserved `op`, and reporting it writes nothing but the queue. -/
theorem reservedOpReportsBadCommand : Obligations.ReservedOpReportsBadCommand := by
  refine ⟨decodeCmd_ok_iff, ?_⟩
  intro s w rest p hno hc hop
  have hf : fetch p = .noCommand (takeCommand rest p) := fetch_of_badCommand hno hc (decodeCmd_reserved hop)
  rw [step, hf]
  rfl

/-! ### The frame word (R65, R68) -/

theorem statusCode_le (st : Status) : (statusCode st).toNat ≤ 0x0E := by
  cases st <;> decide

/-- Settles O5: each field is what is left when the fields below it are cut off. -/
theorem frameWordHoldsEachFieldInItsPlace : Obligations.FrameWordHoldsEachFieldInItsPlace := by
  refine ⟨fun f hf => ?_, rfl, rfl, rfl, rfl, rfl, rfl, rfl, rfl, rfl, rfl, rfl, rfl, rfl, rfl, rfl⟩
  have hstatus : (frameWord f).extractLsb' 48 8 = statusCode f.status := by
    unfold frameWord
    iterate 3 rw [BitVec.extractLsb'_append_eq_of_le (by decide)]
    exact BitVec.extractLsb'_append_eq_right
  have hlength : (frameWord f).extractLsb' 40 8 = BitVec.ofNat 8 f.length := by
    unfold frameWord
    iterate 2 rw [BitVec.extractLsb'_append_eq_of_le (by decide)]
    exact BitVec.extractLsb'_append_eq_right
  refine ⟨?_, ?_, ?_, ?_, hstatus, ?_, ?_, BitVec.extractLsb'_append_eq_right, hstatus ▸ statusCode_le f.status⟩
  · unfold frameWord
    iterate 6 rw [BitVec.extractLsb'_append_eq_of_le (by decide)]
    exact BitVec.extractLsb'_append_eq_left
  · unfold frameWord
    iterate 7 rw [BitVec.getLsbD_append]
    simp
  · unfold frameWord
    iterate 6 rw [BitVec.getLsbD_append]
    simp
  · unfold frameWord
    iterate 4 rw [BitVec.extractLsb'_append_eq_of_le (by decide)]
    exact BitVec.extractLsb'_append_eq_right
  · rw [hlength, BitVec.toNat_ofNat]
    omega
  · unfold frameWord
    rw [BitVec.extractLsb'_append_eq_of_le (by decide)]
    exact BitVec.extractLsb'_append_eq_right

end Sys2Proof.Machine
end

section
/-! Event vectors and table words: the operation of the earliest step is decoded, and a word presented by the model's
interface is taken next (30_encoding.md R60, R69 to R71, 60_exceptions.md R241). -/

namespace Sys2Proof.Machine

open Sys2Proof

/-! ### What an event vector decodes to -/

theorem decodeEvt_noEvent_iff (e : EventInput) : decodeEvt e = .error .noEvent ↔ e.vec = 0 := by
  rw [← decodeEvt_error_iff]
  refine ⟨fun h => ⟨_, h⟩, fun ⟨d, h⟩ => ?_⟩
  unfold decodeEvt at h ⊢
  split_ifs at h ⊢
  rfl

/-- A vector within another has its bits. -/
theorem getLsbD_of_and_eq {b v : BitVec 6} {k : Nat} (h : b &&& v = b) (hk : b.getLsbD k = true) :
    v.getLsbD k = true := by
  rw [← h, BitVec.getLsbD_and, Bool.and_eq_true] at hk
  exact hk.2

theorem and_eq_trans {a b c : BitVec 6} (hab : a &&& b = a) (hbc : b &&& c = b) : a &&& c = a := by
  rw [← hab, BitVec.and_assoc, hbc]

/-- An event is decoded exactly if it is in the vector, with the vector's arguments, and no event of an earlier step of
R241 is. -/
theorem decodeEvt_ok_iff (e : EventInput) (i : Instr) :
    decodeEvt e = .ok i ↔ ¬isCommand i ∧ eventBit i &&& e.vec = eventBit i ∧ e.vec &&& (phaseOf i).mask = e.vec ∧
      ∀ c level, i = .rxEdge c level → c = e.tCap ∧ level = e.level := by
  obtain ⟨v, tCap, level⟩ := e
  constructor
  · intro h
    unfold decodeEvt at h
    dsimp only at h
    split_ifs at h <;> cases h <;> refine ⟨by simp [isCommand, eventBit], ?_, ?_, by simp⟩
    all_goals
      simp only [eventBit, phaseOf, Phase.mask]
      revert v
      decide
  · rintro ⟨hc, hb, hm, ha⟩
    unfold decodeEvt
    rw [← hm]
    cases i
    case reset => simp [getLsbD_of_and_eq (k := 5) hb rfl, phaseOf, Phase.mask]
    case txMatch => simp [getLsbD_of_and_eq (k := 4) hb rfl, phaseOf, Phase.mask]
    case rxEdge c l =>
      obtain ⟨rfl, rfl⟩ := ha c l rfl
      simp [getLsbD_of_and_eq (k := 0) hb (by simp [eventBit]), phaseOf, Phase.mask]
    case rxStopbitMatch => simp [getLsbD_of_and_eq (k := 1) hb rfl, phaseOf, Phase.mask]
    case rxPeriodMatch => simp [getLsbD_of_and_eq (k := 2) hb rfl, phaseOf, Phase.mask]
    case rxQueryMatch => simp [getLsbD_of_and_eq (k := 3) hb rfl, phaseOf, Phase.mask]
    all_goals exact absurd rfl hc

theorem phaseOf_command {i : Instr} (h : isCommand i) : phaseOf i = .host := by
  cases i
  case rxEdge | rxStopbitMatch | rxPeriodMatch | rxQueryMatch | txMatch | reset => cases h
  all_goals rfl

/-- Settles O4: the events of the decoded vector are all of the decoded event's step or later. -/
theorem eventVectorIsTakenInOrder : Obligations.EventVectorIsTakenInOrder := by
  refine ⟨fun e => ⟨fun i h => ?_, (decodeEvt_noEvent_iff e).symm, ?_⟩, fun i => decodeEvt_noEvent_iff _,
    rfl, rfl, fun _ _ => rfl, rfl, rfl, rfl, fun i h => congrArg Phase.number (phaseOf_command h)⟩
  · obtain ⟨hevent, hbit, hmask, -⟩ := (decodeEvt_ok_iff e i).mp h
    refine ⟨hevent, hbit, fun j hj hjbit => ?_⟩
    exact ((eventBit_and_mask j _).mp (and_eq_trans hjbit hmask)).resolve_left hj
  · obtain ⟨v, c, l⟩ := e
    refine ⟨?_, ?_, ?_, ?_, ?_, ?_⟩ <;> rintro rfl <;> simp [decodeEvt]

/-! ### A table word presented -/

theorem decodeTableWord_eq_some {nbits w : Nat} {i : Instr} (h : decodeTableWord nbits w = some i) :
    (∃ c, tableWord nbits w = .ok (.cmd c) ∧ decodeCmd c = .ok i) ∨
      ∃ e, tableWord nbits w = .ok (.evt e) ∧ decodeEvt e = .ok i := by
  unfold decodeTableWord at h
  split at h
  · cases h
  · next en hen =>
    split at h <;> cases h
    next hi =>
      cases en
      · exact .inl ⟨_, hen, hi⟩
      · exact .inr ⟨_, hen, hi⟩

theorem withFetchWord_cmd {nbits w : Nat} {c : BitVec 64} (h : tableWord nbits w = .ok (.cmd c)) (s : State) :
    s.withFetchWord nbits w = { s with env := { s.env with phase := .host, cmds := c :: s.env.cmds } } := by
  simp [State.withFetchWord, h]

theorem withFetchWord_evt {nbits w : Nat} {e : EventInput} {i : Instr} (h : tableWord nbits w = .ok (.evt e))
    (hi : decodeEvt e = .ok i) (s : State) : s.withFetchWord nbits w = presentEvent e i s := by
  simp [State.withFetchWord, h, hi]

theorem makeDue_keeps (i : Instr) (s : State) :
    (makeDue i s).params = s.params ∧ (makeDue i s).rx = s.rx ∧ (makeDue i s).q = s.q ∧ (makeDue i s).env = s.env := by
  cases i <;> exact ⟨rfl, rfl, rfl, rfl⟩

/-- The channel of a match made due lets the match take effect. -/
theorem eventAllowed_presentEvent (e : EventInput) (i : Instr) (s : State) :
    eventAllowed i (presentArrived (presentEvent e i s)) = true := by
  rw [eventAllowed_iff]
  refine ⟨?_, ?_, ?_, ?_⟩ <;> rintro rfl
  · rfl
  · rfl
  · rfl
  · exact fun _ => sub_sub_cancel s.nowUs (s.tx.entry s.tx.index)

/-- The event presented is decoded, whatever else is presented: it is the first of its kind, and the earlier steps of
R241 are passed. -/
theorem decodeEvt_presentEvent {e : EventInput} {i : Instr} (h : decodeEvt e = .ok i) (s : State) :
    let p := presentArrived (presentEvent e i s)
    decodeEvt (maskInput p.eventInput p.env.phase.mask) = .ok i := by
  intro p
  obtain ⟨hevent, hbit, hvecMask, hargs⟩ := (decodeEvt_ok_iff e i).mp h
  obtain ⟨rest, hrest⟩ : ∃ rest, p.env.presented = [] ++ e :: rest := ⟨_, rfl⟩
  have hphase : p.env.phase = phaseOf i := rfl
  have hvec : e.vec &&& p.eventInput.vec = e.vec := by
    rw [eventInput_vec, hrest]
    ext k hk
    simp +contextual [presentedVec]
  have hmask : eventBit i &&& (phaseOf i).mask = eventBit i := and_eq_trans hbit hvecMask
  rw [hphase, decodeEvt_ok_iff]
  refine ⟨hevent, ?_, ?_, ?_⟩
  · rw [maskInput, ← BitVec.and_assoc, and_eq_trans hbit hvec, hmask]
  · simp [maskInput, BitVec.and_assoc]
  · rintro c level rfl
    obtain ⟨rfl, rfl⟩ := hargs c level rfl
    obtain ⟨hcap, hlevel⟩ := eventInput_of_first hrest (by simp) (getLsbD_of_and_eq hbit (by simp [eventBit]))
    exact ⟨hcap.symm, hlevel.symm⟩

theorem step_of_fetch_op {s u : State} {i : Instr} (h : fetch (presentArrived s) = .op i u) : step s = runOp i u := by
  rw [step, h]

/-- Settles O7: a command word is the next one, the events being over, and an event is the first of its step, its
channel made due. -/
theorem presentedTableWordRunsNext : Obligations.PresentedTableWordRunsNext := by
  intro s nbits w i h
  obtain ⟨c, hw, hi⟩ | ⟨e, hw, hi⟩ := decodeTableWord_eq_some h
  · rw [withFetchWord_cmd hw]
    have hf := fetch_of_command
      (s := presentArrived { s with env := { s.env with phase := .host, cmds := c :: s.env.cmds } })
      ((decodeEvt_noEvent_iff _).mpr (BitVec.and_zero ..)) rfl hi
    exact ⟨_, hf, step_of_fetch_op hf, rfl, rfl, rfl, rfl, rfl⟩
  · rw [withFetchWord_evt hw hi]
    have hf := (fetch_of_event (.inl (decodeEvt_presentEvent hi s))).trans
      (if_pos (eventAllowed_presentEvent e i s))
    obtain ⟨hp, hrx, hq, henv⟩ := makeDue_keeps i s
    exact ⟨_, hf, step_of_fetch_op hf, hrx, hq, hp, by simp [presentEvent, henv],
      by simp [presentEvent, henv]⟩

end Sys2Proof.Machine
end

section
/-! The settling times by frame type (40_timing_tables.md R94, 10_state.md R11). -/

namespace Sys2Proof.Machine

open Sys2Proof

/-- Of the two kinds with a priority, a legal one is the index into the table (R11). -/
theorem settleTime_of_priority {k : FrameKind} {prio : Fin 8} (hk : k = .forward ∨ k = .query)
    (hp : 1 ≤ prio.val ∧ prio.val ≤ 5) : settleTime k prio = settleTable ⟨prio.val, by omega⟩ := by
  obtain rfl | rfl := hk
  all_goals simp [settleTime, settleIndex, hp]

/-- Settles O44: a kind without a priority has one entry of the table, one with a priority the entry of its index. -/
theorem settlingTimesAreTheTable : Obligations.SettlingTimesAreTheTable := by
  refine ⟨rfl, rfl, rfl, rfl, fun k hk => ⟨?_, ?_, ?_, ?_, ?_⟩⟩
  all_goals exact settleTime_of_priority hk (by decide)

end Sys2Proof.Machine
end

section
/-! Building a frame's table never overflows, and the table has the size and the end of its waveform (41_transmitter.md
R108, R110, R125). -/

namespace Sys2Proof.Machine

open Sys2Proof

/-! ### A frame's table never overflows (R108, R110) -/

theorem Tx.table_length (t : Tx) : t.table.length = t.n.val := by
  have hlt := t.n.isLt
  rw [Tx.table, List.length_take, Vector.length_toList]
  omega

/-- A phase is pushed while there is room for it in the table and in the running sum (R106). -/
theorem Tx.Holds.exists_pushPhase {t : Tx} {l : List Nat} {m d : Nat} (h : t.Holds l m) (hl : l.length < 67)
    (hm : m + d < 2 ^ 32) : ∃ t', t.pushPhase (BitVec.ofNat 32 d) = some t' ∧ t'.Holds (l ++ [m + d]) (m + d) := by
  obtain ⟨-, hfull | hsum⟩ | ⟨_, -, hsome⟩ := pushPhase_cases t (BitVec.ofNat 32 d)
  · rw [← t.table_length, h.table, List.length_map] at hfull; omega
  · rw [h.countNow, BitVec.toNat_ofNat, BitVec.toNat_ofNat, Nat.mod_eq_of_lt (by omega),
      Nat.mod_eq_of_lt (by omega)] at hsum
    omega
  · exact ⟨_, hsome, (h.pushPhase hsome).1⟩

/-- The two phases of the start bit fit an empty table. -/
theorem exists_startBit (t : Tx) : ∃ t', t.startBit = some t' ∧ t'.Holds [417, 834] 834 := by
  have hclear : t.clearTable.Holds [] 0 := ⟨by simp [Tx.table], rfl⟩
  obtain ⟨u, hu, hhu⟩ := hclear.exists_pushPhase (d := 417) (by decide) (by decide)
  obtain ⟨v, hv, hhv⟩ := hhu.exists_pushPhase (d := 417) (by decide) (by decide)
  refine ⟨{ v with levelHigh := true }, ?_, hhv.table, hhv.countNow⟩
  have hu' : t.clearTable.pushPhase tHalf = some u := hu
  have hv' : u.pushPhase tHalf = some v := hv
  simp [Tx.startBit, hu', hv']

/-- A bit adds at most two entries and 834 µs; it is added while there is room for that (R107). -/
theorem Tx.CellBuilt.exists_addBit {t : Tx} {done : List Nat} {prev : Bool} {m : Nat} (h : t.CellBuilt done prev m)
    (hl : done.length < 65) (hm : m + 1251 < 2 ^ 32) (b : Bool) :
    ∃ t' done' m', t.addBit b = some t' ∧ t'.CellBuilt done' b m' ∧ done'.length ≤ done.length + 2 ∧
      m' ≤ m + 834 := by
  by_cases hp : b = prev
  · subst hp
    obtain ⟨u, hu, hhu⟩ := h.holds.exists_pushPhase (d := 417) (by simp; omega) (by omega)
    obtain ⟨v, hv, -⟩ := hhu.exists_pushPhase (d := 417) (by simp; omega) (by omega)
    have hb : t.addBit b = some { v with levelHigh := b } := by
      have hu' : t.pushPhase tHalf = some u := hu
      have hv' : u.pushPhase tHalf = some v := hv
      simp [Tx.addBit, h.levelHigh, hu', hv']
    exact ⟨_, _, _, hb, h.addBit_same hb, by simp, le_rfl⟩
  · obtain ⟨u, hu, -⟩ := (h.holds.extendLast 833).exists_pushPhase (d := 417) (by simp; omega) (by omega)
    have hb : t.addBit b = some { u with levelHigh := b } := by
      have hu' : (t.extendLast tHalf tFull).pushPhase tHalf = some u := hu
      have hlevel : (!b) = t.levelHigh := by rw [h.levelHigh]; exact Bool.not_eq.mpr hp
      simp [Tx.addBit, hlevel, hu']
    exact ⟨_, _, _, hb, h.addBit_other hp hb, by simp, by omega⟩

/-- The data bits and the stop condition are added while there is room for all of them. -/
theorem Tx.CellBuilt.exists_stopCondition {data : Word} {k : Nat} {t : Tx} {done : List Nat} {prev : Bool} {m : Nat}
    (h : t.CellBuilt done prev m) (hl : done.length + 2 * k < 66) (hm : m + 834 * k ≤ 30000) :
    ∃ u t', Tx.addBits data k t = some u ∧ u.stopCondition = some t' := by
  induction k generalizing t done prev m with
  | zero =>
    refine ⟨t, ?_⟩
    cases hlevel : t.levelHigh
    · obtain ⟨t', ht', -⟩ := h.holds.exists_pushPhase (d := 2450) (by simp; omega) (by omega)
      exact ⟨t', rfl, by rw [Tx.stopCondition, hlevel]; exact ht'⟩
    · exact ⟨t.extendLast tHalf tStopTx, rfl, by simp [Tx.stopCondition, hlevel]⟩
  | succ k ih =>
    obtain ⟨v, done', m', hv, hcell, hlen, hmid⟩ := h.exists_addBit (by omega) (by omega) (data.getLsbD k)
    obtain ⟨u, t', hu, ht'⟩ := ih hcell (by omega) (by omega)
    exact ⟨u, t', by rw [Tx.addBits, hv]; exact hu, ht'⟩

/-- The table of a corrupt frame: the start bit, one phase too long, the stop condition (R110). -/
theorem exists_encodeFrame_corrupt (t : Tx) (length : Nat) (data : Word) :
    ∃ t', t.encodeFrame .corrupt length data = some t' ∧ t'.table = [417, 834, 2334, 4784] := by
  obtain ⟨u, hu, hhu⟩ := exists_startBit t
  obtain ⟨v, hv, hhv⟩ := hhu.exists_pushPhase (d := 1500) (by decide) (by decide)
  have hlow : Tx.Holds { v with levelHigh := false } ([417, 834] ++ [834 + 1500]) (834 + 1500) :=
    ⟨hhv.table, hhv.countNow⟩
  obtain ⟨t', ht', hht'⟩ := hlow.exists_pushPhase (d := 2450) (by decide) (by decide)
  have hv' : u.pushPhase tCorrupt = some v := hv
  refine ⟨t', ?_, hht'.table⟩
  rw [Tx.encodeFrame, hu, Option.bind_some, if_pos rfl, hv']
  exact ht'

/-- No frame that is short enough overflows (R108). -/
theorem exists_encodeFrame (t : Tx) (k : FrameKind) {length : Nat} (data : Word) (hlen : length ≤ 32) :
    ∃ t', t.encodeFrame k length data = some t' := by
  by_cases hk : k = .corrupt
  · subst hk
    obtain ⟨t', ht', -⟩ := exists_encodeFrame_corrupt t length data
    exact ⟨t', ht'⟩
  · obtain ⟨u, hu, -⟩ := exists_startBit t
    obtain ⟨v, t', hv, ht'⟩ := (cellBuilt_startBit hu).exists_stopCondition (data := data) (k := length)
      (by rw [List.length_singleton]; omega) (by omega)
    exact ⟨t', by simp [Tx.encodeFrame, hk, hu, hv, ht']⟩

/-! ### The size and the end of the waveform (R125) -/

/-- One entry for every half cell, but one less for every bit that differs, and one more for a stop condition of its
own. -/
theorem waveform_length (prev : Bool) (m : Nat) (bs : List Bool) :
    (waveform prev m bs).length + toggles prev bs = 1 + 2 * bs.length + (!bs.getLastD prev).toNat := by
  induction bs generalizing prev m with
  | nil => cases prev <;> rfl
  | cons b bs ih =>
    rw [waveform, toggles, List.getLastD_cons, List.length_cons]
    split
    · have := ih b (m + 834)
      simp only [List.length_cons]
      omega
    · have := ih b (m + 833)
      simp only [List.length_cons]
      omega

/-- A cell takes 834 µs, one less for a bit that differs, and the stop condition 2450 from the last rising edge, which
is in the middle of a cell of a bit 1 and at the end of one of a bit 0. -/
theorem waveform_getLastD (prev : Bool) (m d : Nat) (bs : List Bool) :
    (waveform prev m bs).getLastD d + toggles prev bs =
      m + 834 * bs.length + 2450 + 417 * (!bs.getLastD prev).toNat := by
  induction bs generalizing prev m d with
  | nil => cases prev <;> simp [waveform, toggles]
  | cons b bs ih =>
    rw [waveform, toggles, List.getLastD_cons, List.length_cons]
    split
    · have := ih b (m + 834) (m + 834)
      simp only [List.getLastD_cons]
      omega
    · have := ih b (m + 833) (m + 833)
      simp only [List.getLastD_cons]
      omega

/-- A last bit that is 0 after a start bit 1 needs a bit that differs. -/
theorem toggles_pos {bs : List Bool} (h : bs.getLastD true = false) : 1 ≤ toggles true bs := by
  induction bs with
  | nil => cases h
  | cons b bs ih =>
    rw [toggles]
    cases b
    · simp
    · rw [List.getLastD_cons] at h
      exact (ih h).trans (Nat.le_add_left ..)

theorem sentBits_length (data : Word) (k : Nat) : (sentBits data k).length = k := by
  induction k with
  | zero => rfl
  | succ k ih => rw [sentBits, List.length_cons, ih]

/-- The last bit sent is the least significant one; a frame without bits ends with its start bit. -/
theorem sentBits_getLastD (data : Word) (k : Nat) (prev : Bool) :
    (sentBits data k).getLastD prev = if k = 0 then prev else data.getLsbD 0 := by
  induction k generalizing prev with
  | zero => rfl
  | succ k ih =>
    rw [sentBits, List.getLastD_cons, ih]
    split <;> simp_all

/-- No entry is later than 834 µs for each bit and the longest end, 417 + 2450 µs, allow. -/
theorem waveform_le (prev : Bool) (m : Nat) (bs : List Bool) {x : Nat} (hx : x ∈ waveform prev m bs) :
    x ≤ m + 834 * bs.length + 2867 := by
  induction bs generalizing prev m with
  | nil => cases prev <;> simp [waveform] at hx ⊢ <;> omega
  | cons b bs ih =>
    rw [List.length_cons]
    unfold waveform at hx
    split at hx
    · obtain rfl | rfl | hx := by simpa using hx
      · omega
      · omega
      · have := ih b (m + 834) hx; omega
    · obtain rfl | hx := by simpa using hx
      · omega
      · have := ih b (m + 833) hx; omega

/-! ### The table of a frame -/

/-- Times below 2^32 µs are their own 32-bit counts. -/
theorem map_toNat_ofNat {l : List Nat} (h : ∀ x ∈ l, x < 2 ^ 32) :
    (l.map (BitVec.ofNat 32)).map BitVec.toNat = l := by
  rw [List.map_map]
  exact (List.map_congr_left fun x hx => Nat.mod_eq_of_lt (h x hx)).trans (List.map_id l)

/-- Settles O15: no push overflows, and the table is the waveform (`encodeFrame_table`), whose times are far below
2^32 µs. -/
theorem sendTableIsTheWaveform : Obligations.SendTableIsTheWaveform := by
  intro t k length data hk hlen
  obtain ⟨t', ht'⟩ := exists_encodeFrame t k data hlen
  refine ⟨t', ht', ?_⟩
  rw [encodeFrame_table hk ht', map_toNat_ofNat fun x hx => ?_]
  obtain rfl | hx := List.mem_cons.mp hx
  · decide
  · have := waveform_le _ _ _ hx
    rw [sentBits_length] at this
    omega

/-- The last valid entry is the last of the table. -/
theorem Tx.table_getLastD {t : Tx} {i : Fin 67} (hi : i.val + 1 = t.n.val) (d : Word) :
    t.table.getLastD d = t.entry i := by
  have hlen : i.val < t.count.toList.length := by simp
  rw [Tx.table, ← hi, List.take_succ_eq_append_getElem hlen, List.getLastD_concat, Vector.getElem_toList]
  rfl

/-- The running sum is the last time of the frame's waveform. -/
theorem encodeFrame_countNow {t t' : Tx} {k : FrameKind} {length : Nat} {data : Word} (hk : k ≠ .corrupt)
    (hlen : length ≤ 32) (h : t.encodeFrame k length data = some t') :
    t'.countNow = BitVec.ofNat 32 ((waveform true 417 (sentBits data length)).getLastD 417) := by
  have hends := endsBy_encodeFrame hlen h
  have hpos := hends.nonempty
  have hlt := t'.n.isLt
  have hi : (⟨t'.n.val - 1, by omega⟩ : Fin 67).val + 1 = t'.n.val := by simp only; omega
  rw [hends.ordered.countNow_last _ hi, ← Tx.table_getLastD hi 0, encodeFrame_table hk h, List.map_cons,
    List.getLastD_cons, List.getLastD_map]

/-- Settles O16: the size and the last entry of the table are those of the waveform. -/
theorem sendTableSizeAndEnd : Obligations.SendTableSizeAndEnd := by
  intro t t' k length data hk hlen h c z
  have hz : (!(sentBits data length).getLastD true).toNat = z := by
    simp only [z, sentBits_getLastD]
    rcases length with _ | n
    · rfl
    · cases data.getLsbD 0 <;> simp
  have hz1 : z ≤ 1 := hz ▸ Bool.toNat_le _
  have hc : z = 1 → 1 ≤ c := fun h1 => toggles_pos (by simpa [h1] using hz)
  have hsize : _ + c = _ := waveform_length true 417 (sentBits data length)
  have hend : _ + c = _ := waveform_getLastD true 417 417 (sentBits data length)
  rw [sentBits_length, hz] at hsize hend
  have hn : t'.n.val = (waveform true 417 (sentBits data length)).length + 1 := by
    rw [← t'.table_length, encodeFrame_table hk h, List.length_map, List.length_cons]
  have hsum : t'.countNow.toNat = (waveform true 417 (sentBits data length)).getLastD 417 := by
    rw [encodeFrame_countNow hk hlen h, BitVec.toNat_ofNat, Nat.mod_eq_of_lt (by omega)]
  refine ⟨by omega, by omega, by omega, by omega, fun i hi => ?_⟩
  exact ((endsBy_encodeFrame hlen h).ordered.countNow_last i hi).symm

end Sys2Proof.Machine
end

section
/-! What the commands of the transmitter do (41_transmitter.md R104, R110 to R117). -/

namespace Sys2Proof.Machine

open Sys2Proof

/-! ### SEND (R104, R110) -/

/-- The arguments of a `SEND` are bad exactly if no kind is accepted. -/
theorem acceptableKind_eq_none_iff (kind : KindField) (prio : BitVec 4) (length : BitVec 8) :
    acceptableKind kind prio length = none ↔ badSendArguments kind prio length := by
  unfold acceptableKind badSendArguments
  split
  · next hl => simp [hl]
  · next hl =>
    cases kind
    case forward | query => simp [sendKind, hasPriority, legalPriority, hl]; omega
    all_goals simp [sendKind, hasPriority, hl]

/-- An accepted kind is the one the `SEND` names, of a frame that is short enough, with a legal priority if it has
one. -/
theorem acceptableKind_eq_some {kind : KindField} {prio : BitVec 4} {length : BitVec 8} {k : FrameKind}
    (h : acceptableKind kind prio length = some k) :
    length.toNat ≤ 32 ∧ sendKind kind = some k ∧ (hasPriority k = true → legalPriority prio = true) := by
  unfold acceptableKind at h
  split at h
  · cases h
  · next hl =>
    split at h
    · cases h
    · next hk =>
      split at h <;> cases h
      next hp => exact ⟨Nat.le_of_not_lt hl, hk, fun hk' => by simpa [hk'] using hp⟩

theorem hasPriority_iff (k : FrameKind) : hasPriority k = true ↔ k = .forward ∨ k = .query := by
  cases k <;> decide

/-- A legal priority is stored as it is, and 0 where there is none. -/
theorem storedPriority_val {k : FrameKind} {prio : BitVec 4} (h : hasPriority k = true → legalPriority prio = true) :
    (storedPriority k prio).val = if k = .forward ∨ k = .query then prio.toNat else 0 := by
  unfold storedPriority
  simp only [← hasPriority_iff]
  split
  · next hk =>
    obtain ⟨-, h5⟩ : 1 ≤ prio.toNat ∧ prio.toNat ≤ 5 := by simpa [legalPriority] using h hk
    exact Nat.mod_eq_of_lt (by omega)
  · rfl

/-- A bad argument is reported before anything else (R104 step 1). -/
theorem send_of_bad {kind : KindField} {prio : BitVec 4} {length : BitVec 8}
    (h : badSendArguments kind prio length) (rep : BitVec 8) (data : Word) (s : State) :
    send kind prio length rep data s = report .errorBadArgument s := by
  rw [send, (acceptableKind_eq_none_iff kind prio length).mpr h]

/-- A busy transmitter refuses what is no bad argument (R104 step 2). -/
theorem send_of_busy {kind : KindField} {prio : BitVec 4} {length : BitVec 8} {k : FrameKind} {s : State}
    (h : acceptableKind kind prio length = some k) (ha : s.tx.armed = true) (rep : BitVec 8) (data : Word) :
    send kind prio length rep data s = report .errorCanNotProcess s := by
  simp [send, h, ha]

/-- Otherwise the table is armed and the scheduler is asked (R104 step 3). -/
theorem send_of_idle {kind : KindField} {prio : BitVec 4} {length : BitVec 8} {k : FrameKind} {s : State} {t : Tx}
    {data : Word} (h : acceptableKind kind prio length = some k) (ha : s.tx.armed = false)
    (ht : s.tx.encodeFrame k length.toNat data = some t) (rep : BitVec 8) :
    send kind prio length rep data s = armAndSchedule k (storedPriority k prio) rep t s := by
  simp [send, h, ha, ht]

/-- Settles O14: the arguments are good exactly if a kind is accepted, and then no push overflows. -/
theorem sendFollowsItsRule : Obligations.SendFollowsItsRule := by
  refine ⟨⟨rfl, rfl, rfl, rfl, rfl, rfl, fun _ => rfl⟩, fun kind prio length rep data s => ?_⟩
  have accepted (h : ¬badSendArguments kind prio length) : ∃ k, acceptableKind kind prio length = some k :=
    Option.ne_none_iff_exists'.mp (mt (acceptableKind_eq_none_iff kind prio length).mp h)
  refine ⟨fun h => congrArg Host.Outcome.next (send_of_bad h rep data s), fun h ha => ?_, fun h ha => ?_⟩ <;>
    obtain ⟨k, hk⟩ := accepted h
  · exact congrArg Host.Outcome.next (send_of_busy hk ha rep data)
  · obtain ⟨hlen, hkind, hprio⟩ := acceptableKind_eq_some hk
    obtain ⟨t, ht⟩ := exists_encodeFrame s.tx k data hlen
    exact ⟨k, storedPriority k prio, t, hkind, storedPriority_val hprio, ht, builtFrom_encodeFrame ht,
      congrArg Host.Outcome.next (send_of_idle hk ha ht rep)⟩

/-- The table is armed as it was built, with the type and the repeat count given (R104 step 3, R115). -/
theorem armAndSchedule_table (k : FrameKind) (prio : Fin 8) (rep : BitVec 8) (t : Tx) (s : State) :
    (armAndSchedule k prio rep t s).tx.table = t.table ∧ (armAndSchedule k prio rep t s).tx.kind = k ∧
      (armAndSchedule k prio rep t s).tx.rep = rep := by
  unfold armAndSchedule
  obtain ⟨e, ⟨-, h⟩ | ⟨c, h⟩⟩ := rxScheduleTransmission_cases { s with
    tx := { t with building := false, kind := k, prio := prio, rep := rep, armed := true } }
  all_goals rw [h]; exact ⟨rfl, rfl, rfl⟩

/-- Settles O17: a `Corrupt` frame has no bad argument but its length, and its table is the same for all. -/
theorem corruptSendTable : Obligations.CorruptSendTable := by
  intro prio length rep data s
  refine ⟨fun h => congrArg Host.Outcome.next (send_of_bad (.inl h) rep data s), fun h ha => ?_⟩
  have hk : acceptableKind .corrupt prio length = some .corrupt := if_neg (Nat.not_lt.mpr h)
  obtain ⟨t, ht, htable⟩ := exists_encodeFrame_corrupt s.tx length.toNat data
  obtain ⟨hsame, hkind, hrep⟩ := armAndSchedule_table .corrupt (storedPriority .corrupt prio) rep t s
  exact ⟨_, congrArg Host.Outcome.next (send_of_idle hk ha ht rep), hsame.trans htable, hkind, hrep⟩

/-! ### A table made by hand, and IS_TX_IDLE (R111 to R117) -/

/-- Settles O18: by its one test. -/
theorem seqStartFollowsItsRule : Obligations.SeqStartFollowsItsRule := by
  refine fun s => ⟨fun ha => congrArg Host.Outcome.next (if_pos ha), fun ha => ?_⟩
  exact congrArg Host.Outcome.next (if_neg (by simp [ha]))

theorem seqNext_of_refused {s : State} (h : s.tx.armed = true ∨ s.tx.building = false) (p : Word) :
    seqNext p s = report .errorCanNotProcess s := if_pos (by simpa using h)

/-- With a construction open, an empty phase is a bad argument and any other is pushed (R113). -/
theorem seqNext_of_building {s : State} (ha : s.tx.armed = false) (hb : s.tx.building = true) (p : Word) :
    seqNext p s = if p = 0 then report .errorBadArgument s
      else ((s.tx.pushPhase p).map fun t => { s with tx := t }).getD (tableOverflow s) := by
  unfold seqNext
  rw [if_neg (by simp [ha, hb])]
  cases s.tx.pushPhase p <;> rfl

/-- Settles O19: with the two refusals put aside, by the two ways a push can end (`pushPhase_cases`). -/
theorem seqNextFollowsItsRule : Obligations.SeqNextFollowsItsRule := by
  refine fun p s => ⟨fun h => congrArg Host.Outcome.next (seqNext_of_refused h p), fun ha hb hp => ?_,
    fun ha hb hp hover => ?_, fun ha hb hp hn hsum => ?_⟩ <;>
    refine congrArg Host.Outcome.next ((seqNext_of_building ha hb p).trans ?_)
  · rw [if_pos hp]
  · obtain ⟨hnone, -⟩ | ⟨hn, hsum, -⟩ := pushPhase_cases s.tx p
    · rw [if_neg hp, hnone]; rfl
    · omega
  · obtain ⟨-, hover⟩ | ⟨_, -, hsome⟩ := pushPhase_cases s.tx p
    · omega
    · rw [if_neg hp, hsome]; rfl

/-- Settles O20: by its one test. -/
theorem seqExecuteFollowsItsRule : Obligations.SeqExecuteFollowsItsRule := by
  refine fun s => ⟨fun h => ?_, fun ha hb hn => ?_⟩
  · exact congrArg Host.Outcome.next (if_pos (by simpa [or_assoc] using h))
  · exact congrArg Host.Outcome.next (if_neg (by simp [ha, hb, hn]))

/-- Settles O21: by the definition of its meaning. -/
theorem isTxIdleAnswersNotArmed : Obligations.IsTxIdleAnswersNotArmed := fun _ => rfl

end Sys2Proof.Machine
end

section
/-! What TX_MATCH does, and that nothing else stops a transmission that is running (41_transmitter.md R100, R118 to
R122). -/

namespace Sys2Proof.Machine

open Sys2Proof

/-! ### TX_MATCH (R118 to R122) -/

/-- The line after a match at which it may toggle. -/
theorem matchedLine_eq (t : Tx) : t.matchedLine = xor t.line t.toggleOnMatch := by
  unfold Tx.matchedLine; cases t.toggleOnMatch <;> simp

/-- Settles O22: the match at an entry that is not the last. -/
theorem txMatchLoadsTheNextEntry : Obligations.TxMatchLoadsTheNextEntry := by
  intro s hr h
  have hnext : txMatch s = nextPhase s h := by simp [txMatch, hr, h]
  refine congrArg Host.Outcome.next (hnext.trans ?_)
  rw [nextPhase, matchedLine_eq]

/-- The query timer is armed exactly for a query (R122). -/
theorem armQuery_eq (s : State) : armQuery s =
    { s with queryCmp := if s.tx.kind = .query then ⟨true, s.nowUs + 13400⟩ else s.queryCmp } := by
  by_cases hk : s.tx.kind = .query
  · simp [armQuery, hk, tBackwardMax]
  · rw [armQuery_of_not_query hk, if_neg hk]

/-- Settles O23: the match at the last entry exhausts the table. -/
theorem txMatchExhaustsTheTable : Obligations.TxMatchExhaustsTheTable := by
  intro s hr hlast
  have hrep : (0 < s.tx.rep.toNat) = (s.tx.rep ≠ 0) := by
    rw [Nat.pos_iff_ne_zero, ne_eq, ne_eq, ← BitVec.toNat_inj]; rfl
  refine congrArg Host.Outcome.next ((txMatch_of_last hr (by omega)).trans ?_)
  rw [exhaust, armQuery_eq]
  simp [hrep, State.nowUs]

/-- Settles O24: by the first test of a match. -/
theorem txMatchWhileStoppedHasNoEffect : Obligations.TxMatchWhileStoppedHasNoEffect :=
  fun _ hr => congrArg Host.Outcome.next (if_neg (by simp [hr]))

/-! ### A running transmission (R100) -/

/-- A start does not touch a transmission that is running. -/
theorem Tx.StartedOrSame.of_running {t t' : Tx} (h : t.StartedOrSame t') (hr : t.running = true) : t' = t := by
  obtain rfl | ⟨hr', -⟩ := h
  · rfl
  · simp [hr] at hr'

/-- While a transmission is running, every operation but `RESET` and `TX_MATCH` leaves the transmitter as it is, but
for the repeat count. -/
theorem exec_tx_of_running {i : Instr} {s t : State} (ha : s.tx.armed = true) (hr : s.tx.running = true)
    (hi : i ≠ .reset) (hi' : i ≠ .txMatch) (he : exec i s = .next t) :
    ∃ rep, t.tx = { s.tx with rep := rep } := by
  have same {t : Tx} (h : t = s.tx) : ∃ rep, t = { s.tx with rep := rep } := ⟨s.tx.rep, h⟩
  cases i <;> cases he
  case send => exact same (send_of_armed ha ..)
  case seqStart => exact same (seqStart_of_armed ha)
  case seqNext => exact same (seqNext_of_armed ha _)
  case seqExecute => exact same (seqExecute_of_armed ha)
  case rxStopbitMatch =>
    obtain ⟨rep, -, h⟩ := rxStopbitMatch_started s
    exact ⟨rep, h.of_running hr⟩
  case rxPeriodMatch => exact same ((rxPeriodMatch_periodMatched s).tx.of_running hr)
  case txMatch | reset => contradiction
  all_goals exact same (by simp)

/-- Settles O25: the commands are refused, the scheduler does not start a second transmission, and only the match at the
last entry is the end. -/
theorem runningTransmissionIsNotCancelled : Obligations.RunningTransmissionIsNotCancelled := by
  intro i s t hinv hr hi he
  by_cases hm : i = .txMatch
  · subst hm
    cases he
    refine ⟨fun hstop => ⟨rfl, ?_⟩, fun h => absurd rfl h⟩
    have hlt := hinv.running_index hr
    by_contra hlast
    obtain ⟨hgoes, -⟩ := txMatch_of_not_last hr (by omega)
    exact Bool.false_ne_true (hstop.symm.trans hgoes)
  · obtain ⟨rep, htx⟩ := exec_tx_of_running (hinv.running_armed hr) hr hi hm he
    rw [htx]
    exact ⟨fun hstop => absurd hr (Bool.eq_false_iff.mp hstop), fun _ => ⟨rfl, rfl, rfl, rfl⟩⟩

end Sys2Proof.Machine
end

section
/-! What an operation can do to the waits of the receiver, that is to its state and to the two compares that end them,
and that every step keeps these compares placed, armed and set late enough (42_receiver.md R141, R160 to R164,
43_scheduler.md R190 to R195). -/

namespace Sys2Proof.Machine

open Sys2Proof

/-! ### The waits kept -/

/-- No cycle is open on the bus. -/
abbrev RxState.Quiet (r : RxState) : Prop := r = .idle ∨ r = .interFrameIdle

/-- A cycle is open: a frame is being decoded, or its edges are absorbed. -/
abbrev RxState.InCycle (r : RxState) : Prop := r.decoding = true ∨ r = .errorInFrame

theorem RxState.InCycle.not_quiet {r : RxState} (h : r.InCycle) : ¬r.Quiet := by
  rintro (rfl | rfl) <;> obtain h | h := h <;> cases h

theorem RxState.InCycle.ne_low {r : RxState} (h : r.InCycle) : r ≠ .low := by
  rintro rfl; obtain h | h := h <;> cases h

/-- `t` has the receiver of `s` and the type of its transmission. -/
structure State.SameReference (s t : State) : Prop where
  rx : t.rx = s.rx
  kind : t.tx.kind = s.tx.kind
  prio : t.tx.prio = s.tx.prio

/-- And the stop and period compares too. -/
structure State.KeepsWaits (s t : State) : Prop extends s.SameReference t where
  stopCmp : t.stopCmp = s.stopCmp
  periodCmp : t.periodCmp = s.periodCmp

theorem State.SameReceiver.keepsWaits {s t : State} (h : s.SameReceiver t) (hk : t.tx.kind = s.tx.kind)
    (hp : t.tx.prio = s.tx.prio) : s.KeepsWaits t := ⟨⟨h.rx, hk, hp⟩, h.stopCmp, h.periodCmp⟩

/-- These give the end of the settling time (R193). -/
theorem State.SameReference.settleEnd {s t : State} (h : s.SameReference t) : t.settleEnd = s.settleEnd := by
  unfold State.settleEnd
  rw [refEdge_eq, refEdge_eq, h.rx, h.kind, h.prio]

/-! ### Long enough a wait (R191, R192, R194) -/

/-- 100 µs less a wait that is short, and not over for 2^30 µs, do not overflow. -/
theorem toInt_hundred_sub {d : Word} (hlong : -(2 ^ 30) < d.toInt) (hend : d.toInt ≤ 100) :
    (100 - d).toInt = 100 - d.toInt :=
  (BitVec.toInt_sub ..).trans (Int.bmod_eq_of_le (by simp; omega) (by simp; omega))

/-- A retry, 100 µs from now, is not before an end that is no further ahead, and not past for 2^30 µs. -/
theorem retry_not_before {now e : Word} (hlong : -(2 ^ 30) < (e - now).toInt) (hend : (e - now).toInt ≤ 100) :
    0 ≤ (now + 100 - e).toInt := by
  have hd : now + 100 - e = 100 - (e - now) := by bv_omega
  rw [hd, toInt_hundred_sub hlong hend]
  omega

/-- A clamped count is not before the settling time it is the end of. -/
theorem clamp_not_before {now e : Word} (h : 0 < (e - now).toInt) : 0 ≤ (clamp now e - e).toInt := by
  rw [clamp_eq]
  split
  · exact retry_not_before (by omega) (by omega)
  · simp

/-- There is no wait left for an end that is not ahead. -/
theorem wait_nonpos {now e : Word} (h : 0 ≤ (now - e).toInt) : (e - now).toInt ≤ 0 := by
  have hmin : now - e ≠ BitVec.intMin 32 := fun hm => absurd (hm ▸ h) (by decide)
  rw [← neg_sub, BitVec.toInt_neg_of_ne_intMin hmin]
  omega

/-! ### The scheduler (R190 to R192, R197) -/

/-- What asking the scheduler can do to the waits: a transmission that is left waiting on a quiet bus has the period
compare armed, late enough if that is in a settling window. -/
structure State.Schedules (s t : State) : Prop where
  state : t.rx.state = s.rx.state
  lastEdge : t.rx.lastEdge = s.rx.lastEdge
  stopCmp : t.stopCmp = s.stopCmp
  periodCmp : (t.periodCmp = s.periodCmp ∧ (t.rx.pendingTx = false ∨ ¬s.rx.state.Quiet)) ∨
    (s.rx.state.Quiet ∧ t.periodCmp.armed = true)
  waitsOut : t.recentReference → t.WaitsOut

/-- With nothing waiting, or outside a settling window, there is nothing to wait out. -/
theorem waitsOut_of_not_pending {s : State} (h : s.rx.pendingTx = false) : s.WaitsOut :=
  fun _ hp => absurd hp (by simp [h])

theorem waitsOut_of_not_window {s : State} (h : s.rx.state ≠ .interFrameIdle) : s.WaitsOut := fun hs => absurd hs h

/-- Once the settling time is over, a transmission is started, or tried again later (R191). -/
theorem startOrRetry_schedules {s : State} (hq : s.rx.state.Quiet)
    (h : s.rx.state = .interFrameIdle → s.settled = true) : s.Schedules (startOrRetry s) := by
  unfold startOrRetry
  split
  · refine ⟨rfl, rfl, rfl, .inr ⟨hq, rfl⟩, fun ⟨hlong, hwait⟩ hs _ => ?_⟩
    have hover := (settled_iff s).mp (h hs)
    have hend : (s.settleEnd - s.nowUs).toInt ≤ 100 := by
      have hwait' : (s.settleEnd - s.nowUs).toInt ≤ 19500 := hwait
      omega
    exact retry_not_before hlong hend
  · exact ⟨rfl, rfl, rfl, .inl ⟨rfl, .inl rfl⟩, fun _ => waitsOut_of_not_pending rfl⟩

theorem scheduleInWindow_schedules {s : State} (hs : s.rx.state = .interFrameIdle) :
    s.Schedules (scheduleInWindow s) := by
  unfold scheduleInWindow
  dsimp only
  split
  · next hset =>
    obtain ⟨h1, h2, h3, h4, h5⟩ := startOrRetry_schedules (s := { s with rx.endIfi := s.settleEnd }) (.inr hs)
      fun _ => hset
    exact ⟨h1, h2, h3, h4, h5⟩
  · next hset =>
    rw [settled_iff] at hset
    exact ⟨rfl, rfl, rfl, .inr ⟨.inr hs, rfl⟩, fun _ _ _ => clamp_not_before (by omega)⟩

theorem rxScheduleTransmission_schedules (s : State) : s.Schedules (rxScheduleTransmission s) := by
  have defer (hq : ¬s.rx.state.Quiet) : s.Schedules { s with rx.pendingTx := true } :=
    ⟨rfl, rfl, rfl, .inl ⟨rfl, .inr hq⟩, fun _ => waitsOut_of_not_window fun hs => hq (.inr hs)⟩
  unfold rxScheduleTransmission
  split
  case h_1 hs => exact startOrRetry_schedules (.inl hs) fun hs' => by simp [hs] at hs'
  case h_2 hs => exact scheduleInWindow_schedules hs
  all_goals next hs => exact defer (by simp [hs])

/-- A settling window is opened: it is timed, and what waits in it waits long enough. -/
structure State.InWindow (t : State) : Prop where
  state : t.rx.state = .interFrameIdle
  stopCmp : t.stopCmp.armed = false
  periodCmp : t.periodCmp.armed = true
  waitsOut : t.recentReference → t.WaitsOut

theorem State.Schedules.inWindow {s t : State} (h : s.Schedules t) (hs : s.rx.state = .interFrameIdle)
    (hstop : s.stopCmp.armed = false) (hperiod : s.periodCmp.armed = true) : t.InWindow := by
  refine ⟨h.state.trans hs, by rw [h.stopCmp, hstop], ?_, h.waitsOut⟩
  obtain ⟨hp, -⟩ | ⟨-, hp⟩ := h.periodCmp
  · rw [hp, hperiod]
  · exact hp

theorem scheduleSettlingTimeout_inWindow {s : State} (hstop : s.stopCmp.armed = false) :
    (scheduleSettlingTimeout s).InWindow := by
  obtain ⟨hp, h⟩ | ⟨-, h⟩ | ⟨-, -, -, h⟩ := scheduleSettlingTimeout_cases s <;> rw [h]
  · exact ⟨rfl, hstop, rfl, fun _ => waitsOut_of_not_pending hp⟩
  · exact (rxScheduleTransmission_schedules _).inWindow rfl hstop rfl
  · exact (rxScheduleTransmission_schedules _).inWindow rfl hstop rfl

/-! ### Edges (R141, R142, R145 to R152) -/

/-- An edge is accepted: a cycle is open, and the stop compare is set by the edge. -/
structure State.AcceptsEdge (s t : State) : Prop where
  inCycle : t.rx.state.InCycle
  stopCmp : t.stopCmp = ⟨true, t.rx.lastEdge + 2400⟩
  periodCmp : t.periodCmp.armed = true → t.periodCmp = s.periodCmp ∧ ¬s.rx.state.Quiet

/-- `t` is in an open cycle, with the last edge and the stop and period compares of `s`. -/
structure State.StaysInCycle (s t : State) : Prop where
  inCycle : t.rx.state.InCycle
  lastEdge : t.rx.lastEdge = s.rx.lastEdge
  stopCmp : t.stopCmp = s.stopCmp
  periodCmp : t.periodCmp = s.periodCmp

theorem State.StaysInCycle.acceptsEdge {s t : State} {c : Word} (h : (acceptEdge c s).StaysInCycle t)
    (hq : ¬s.rx.state.Quiet) : s.AcceptsEdge t :=
  ⟨h.inCycle, by rw [h.stopCmp, h.lastEdge]; rfl, fun _ => ⟨h.periodCmp, hq⟩⟩

theorem rxError_staysInCycle (st : Status) (s : State) : s.StaysInCycle (rxError st s) := ⟨.inr rfl, rfl, rfl, rfl⟩

theorem captureBit_staysInCycle (b : Bool) (s : State) : s.StaysInCycle (captureBit b s) := by
  obtain ⟨-, h⟩ | ⟨-, h⟩ := captureBit_cases b s <;> rw [h]
  · exact rxError_staysInCycle _ s
  · exact ⟨.inl rfl, rfl, rfl, rfl⟩

theorem startBitStartEdge_staysInCycle (ec : Int) (s : State) : s.StaysInCycle (startBitStartEdge ec s) := by
  unfold startBitStartEdge
  split
  · exact ⟨.inl rfl, rfl, rfl, rfl⟩
  · exact rxError_staysInCycle _ s

theorem insideEdge_staysInCycle (ec : Int) (s : State) : s.StaysInCycle (insideEdge ec s) := by
  unfold insideEdge
  split
  · exact ⟨.inl rfl, rfl, rfl, rfl⟩
  · split
    · obtain ⟨hc, he, hs, hp⟩ := captureBit_staysInCycle (!s.rx.lastBit) { s with rx.lastBit := !s.rx.lastBit }
      exact ⟨hc, he, hs, hp⟩
    · exact rxError_staysInCycle _ s

theorem dataBitStartEdge_staysInCycle (ec : Int) (s : State) : s.StaysInCycle (dataBitStartEdge ec s) := by
  unfold dataBitStartEdge
  split
  · exact captureBit_staysInCycle _ s
  · exact rxError_staysInCycle _ s

/-- An edge has no effect, or it is accepted (R143). -/
theorem rxEdge_cases (c : Word) (level : Level) (s : State) :
    rxEdge c level s = s ∨ s.AcceptsEdge (rxEdge c level s) := by
  unfold rxEdge
  dsimp only
  split
  case h_1 | h_2 =>
    split
    · exact .inr ⟨.inl rfl, rfl, nofun⟩
    · exact .inl rfl
  case h_3 hs => exact .inr ((startBitStartEdge_staysInCycle ..).acceptsEdge (by simp [hs]))
  case h_4 hs | h_6 hs => exact .inr ((insideEdge_staysInCycle ..).acceptsEdge (by simp [hs]))
  case h_5 hs => exact .inr ((dataBitStartEdge_staysInCycle ..).acceptsEdge (by simp [hs]))
  case h_7 hs => exact .inr ⟨.inr hs, rfl, fun _ => ⟨rfl, by simp [hs]⟩⟩
  case h_8 hs | h_9 hs =>
    split
    · exact .inl rfl
    · exact .inr ⟨.inr rfl, rfl, fun _ => ⟨rfl, by simp [hs]⟩⟩

/-! ### Every operation -/

/-- What an operation can do to the receiver's state and to the stop and period compares. -/
inductive State.Moves (s t : State) : Prop where
  | kept (h : s.KeepsWaits t)
  /-- A command asks the scheduler. -/
  | scheduled (h : s.Schedules t)
  | edge (h : s.AcceptsEdge t)
  /-- A stop match closes the cycle. -/
  | window (h : t.InWindow)
  /-- A stop match finds the line active (R163). -/
  | low (hdue : s.stopCmp.armed = true) (hstate : t.rx.state = .low)
      (hstop : t.stopCmp = ⟨true, t.rx.lastEdge + 500000⟩) (hperiod : t.periodCmp = s.periodCmp)
  /-- A stop match finds it active for too long (R164). -/
  | failure (hdue : s.stopCmp.armed = true) (hstate : t.rx.state = .failure) (hstop : t.stopCmp.armed = false)
      (hperiod : t.periodCmp = s.periodCmp)
  /-- A stop match on a quiet bus only disarms its compare (R160). -/
  | stopDisarmed (hstate : s.rx.state.Quiet) (h : s.SameReference t) (hstop : t.stopCmp.armed = false)
      (hperiod : t.periodCmp = s.periodCmp)
  /-- A period match off a quiet bus only disarms its compare (R195). -/
  | periodDisarmed (hstate : ¬s.rx.state.Quiet) (h : s.SameReference t) (hstop : t.stopCmp = s.stopCmp)
      (hperiod : t.periodCmp.armed = false)
  /-- A period match finds the transmitter running, and tries again (R195). -/
  | retried (hstate : s.rx.state.Quiet) (hdue : s.periodCmp.count = s.nowUs) (h : s.SameReference t)
      (hnow : t.nowUs = s.nowUs) (hstop : t.stopCmp = s.stopCmp) (hperiod : t.periodCmp = ⟨true, s.nowUs + 100⟩)
  /-- A period match ends the settling window (R195). -/
  | idle (hfrom : s.rx.state.Quiet) (hstate : t.rx.state = .idle) (hpending : t.rx.pendingTx = false)
      (hstop : t.stopCmp = s.stopCmp)
  | reset (hstate : t.rx.state = .idle ∨ t.rx.state = .failure) (hpending : t.rx.pendingTx = false)
      (hstop : t.stopCmp.armed = false) (hperiod : t.periodCmp.armed = false)

theorem rxEdge_moves (c : Word) (level : Level) (s : State) : s.Moves (rxEdge c level s) := by
  obtain h | h := rxEdge_cases c level s
  · rw [h]; exact .kept ⟨⟨rfl, rfl, rfl⟩, rfl, rfl⟩
  · exact .edge h

theorem rxStopbitMatch_moves {s : State} (hdue : s.stopCmp.armed = true) : s.Moves (rxStopbitMatch s) := by
  unfold rxStopbitMatch
  dsimp only
  split <;> split
  case h_6.isTrue => exact .failure hdue rfl rfl rfl
  case h_7.isTrue hs _ => exact .failure hdue hs rfl rfl
  case h_8.isFalse hs _ => exact .stopDisarmed (.inl hs) ⟨rfl, rfl, rfl⟩ rfl rfl
  case h_9.isFalse hs _ => exact .stopDisarmed (.inr hs) ⟨rfl, rfl, rfl⟩ rfl rfl
  case h_1.isFalse | h_2.isFalse | h_3.isFalse | h_4.isFalse | h_5.isFalse | h_6.isFalse | h_7.isFalse =>
    exact .window (scheduleSettlingTimeout_inWindow rfl)
  all_goals exact .low hdue rfl rfl rfl

theorem servePending_moves {s : State} (hq : s.rx.state.Quiet) (hdue : s.periodCmp.count = s.nowUs) :
    s.Moves (servePending { s with periodCmp.armed := false }) := by
  unfold servePending
  split
  · exact .retried hq hdue ⟨rfl, rfl, rfl⟩ rfl rfl rfl
  · exact .idle hq rfl rfl rfl

theorem rxPeriodMatch_moves {s : State} (hdue : s.periodCmp.count = s.nowUs) : s.Moves (rxPeriodMatch s) := by
  unfold rxPeriodMatch
  dsimp only
  split
  case h_1 hs =>
    split
    · exact servePending_moves (.inl hs) hdue
    · next hp => exact .idle (.inl hs) hs (Bool.eq_false_iff.mpr hp) rfl
  case h_2 hs =>
    split
    · exact servePending_moves (.inr hs) hdue
    · next hp => exact .idle (.inr hs) rfl (Bool.eq_false_iff.mpr hp) rfl
  all_goals next hs => exact .periodDisarmed (by simp [hs]) ⟨rfl, rfl, rfl⟩ rfl rfl

theorem armAndSchedule_moves (k : FrameKind) (prio : Fin 8) (rep : BitVec 8) (t : Tx) (s : State) :
    s.Moves (armAndSchedule k prio rep t s) := by
  obtain ⟨h1, h2, h3, h4, h5⟩ := rxScheduleTransmission_schedules { s with
    tx := { t with building := false, kind := k, prio := prio, rep := rep, armed := true } }
  exact .scheduled ⟨h1, h2, h3, h4, h5⟩

theorem send_moves (kind : KindField) (prio : BitVec 4) (length rep : BitVec 8) (data : Word) (s : State) :
    s.Moves (send kind prio length rep data s) := by
  unfold send
  split
  · exact .kept ⟨⟨rfl, rfl, rfl⟩, rfl, rfl⟩
  · split
    · exact .kept ⟨⟨rfl, rfl, rfl⟩, rfl, rfl⟩
    · split
      · exact .kept ⟨⟨rfl, rfl, rfl⟩, rfl, rfl⟩
      · exact armAndSchedule_moves ..

theorem seqExecute_moves (s : State) : s.Moves (seqExecute s) := by
  unfold seqExecute
  split
  · exact .kept ⟨⟨rfl, rfl, rfl⟩, rfl, rfl⟩
  · exact armAndSchedule_moves ..

theorem reset_moves (s : State) : s.Moves (reset s) := by
  unfold reset
  dsimp only
  split
  · exact .reset (.inr rfl) rfl rfl rfl
  · exact .reset (.inl rfl) rfl rfl rfl

theorem txMatch_keepsWaits (s : State) : s.KeepsWaits (txMatch s) := by
  rw [txMatch_transmitsTo s]; exact ⟨⟨rfl, rfl, rfl⟩, rfl, rfl⟩

theorem rxQueryMatch_keepsWaits (s : State) : s.KeepsWaits (rxQueryMatch s) := by
  obtain ⟨hrx, hstop, hperiod⟩ := rxQueryMatch_frame s
  exact ⟨⟨hrx, by simp, by simp⟩, hstop, hperiod⟩

/-- The commands that only ask, and those that construct a table, leave the waits as they are. -/
theorem exec_ask_keepsWaits {i : Instr} {s t : State} (hi : i = .reqStatus ∨ i = .tryReceive ∨ i = .isTxIdle)
    (he : exec i s = .next t) : s.KeepsWaits t := by
  obtain ⟨htx, hr⟩ := exec_ask_frame hi he
  exact hr.keepsWaits (by rw [htx]) (by rw [htx])

theorem exec_construct_keepsWaits {i : Instr} {s t : State} (hi : i = .seqStart ∨ ∃ p, i = .seqNext p)
    (he : exec i s = .next t) : s.KeepsWaits t := by
  obtain ⟨⟨htx, -⟩, hr⟩ := exec_construct_frame hi he
  exact hr.keepsWaits (by rw [htx]) (by rw [htx])

/-- What an operation does to the waits when it may take effect. -/
theorem exec_moves {i : Instr} {s t : State} (ha : eventAllowed i s = true) (he : exec i s = .next t) :
    s.Moves t := by
  cases i
  case seqStart => exact .kept (exec_construct_keepsWaits (.inl rfl) he)
  case seqNext p => exact .kept (exec_construct_keepsWaits (.inr ⟨p, rfl⟩) he)
  case reqStatus => exact .kept (exec_ask_keepsWaits (.inl rfl) he)
  case tryReceive => exact .kept (exec_ask_keepsWaits (.inr (.inl rfl)) he)
  case isTxIdle => exact .kept (exec_ask_keepsWaits (.inr (.inr rfl)) he)
  all_goals cases he
  case send => exact send_moves ..
  case seqExecute => exact seqExecute_moves s
  case rxEdge => exact rxEdge_moves ..
  case rxStopbitMatch => exact rxStopbitMatch_moves (stop_due_of_allowed ha).1
  case rxPeriodMatch => exact rxPeriodMatch_moves (period_due_of_allowed ha).2
  case rxQueryMatch => exact .kept (rxQueryMatch_keepsWaits s)
  case txMatch => exact .kept (txMatch_keepsWaits s)
  case reset => exact reset_moves s

/-! ### Every step -/

/-- A command may always take effect. -/
theorem eventAllowed_of_command {i : Instr} (h : isCommand i) (s : State) : eventAllowed i s = true := by
  rw [eventAllowed_iff]
  refine ⟨?_, ?_, ?_, ?_⟩ <;> rintro rfl <;> cases h

/-- An operation is fetched when it may take effect, with the waits as they were. -/
theorem fetch_op_keepsWaits {i : Instr} {s u : State} (h : fetch (presentArrived s) = .op i u) :
    s.KeepsWaits u ∧ eventAllowed i u = true := by
  obtain ⟨ha, rfl⟩ | ⟨w, rest, -, hd, rfl⟩ := fetch_op_cases h
  · exact ⟨⟨⟨rfl, rfl, rfl⟩, rfl, rfl⟩, ha⟩
  · exact ⟨⟨⟨rfl, rfl, rfl⟩, rfl, rfl⟩, eventAllowed_of_command (decodeCmd_isCommand hd) _⟩

/-- What follows an operation at its instant leaves the waits as they are, or is an edge that is accepted. -/
theorem afterOp_keepsWaits (i : Instr) (s t : State) :
    (t.KeepsWaits (afterOp i s t) ∧ (afterOp i s t).nowUs = t.nowUs) ∨ t.AcceptsEdge (afterOp i s t) := by
  obtain ⟨-, ha⟩ | ⟨-, -, -, ha⟩ | ⟨-, -, ha⟩ := afterOp_cases i s t <;> rw [ha]
  · exact .inl ⟨⟨⟨rfl, rfl, rfl⟩, rfl, rfl⟩, rfl⟩
  · obtain h | ⟨hc, hs, hp⟩ :=
      rxEdge_cases t.nowUs t.lineActive { t with env := { t.env with seen := t.lineActive } }
    · rw [h]; exact .inl ⟨⟨⟨rfl, rfl, rfl⟩, rfl, rfl⟩, rfl⟩
    · exact .inr ⟨hc, hs, hp⟩
  · exact .inl ⟨⟨⟨rfl, rfl, rfl⟩, rfl, rfl⟩, rfl⟩

/-- A step leaves the waits as they are, or it moves them as an operation does, with an edge that may follow. -/
theorem step_moves {s t : State} (h : step s = .next t) :
    s.KeepsWaits t ∨ ∃ u v, s.KeepsWaits u ∧ u.Moves v ∧
      ((v.KeepsWaits t ∧ t.nowUs = v.nowUs) ∨ v.AcceptsEdge t) := by
  obtain ⟨i, u, v, hf, he, rfl⟩ | ⟨u, hf, rfl⟩ | ⟨i, -, rfl⟩ | ⟨-, rfl⟩ := step_cases h
  · obtain ⟨hu, ha⟩ := fetch_op_keepsWaits hf
    exact .inr ⟨u, v, hu, exec_moves ha he, afterOp_keepsWaits i u v⟩
  · obtain ⟨w, rest, e, -, -, rfl⟩ := fetch_noCommand_cases hf
    exact .inl ⟨⟨rfl, rfl, rfl⟩, rfl, rfl⟩
  · exact .inl ⟨⟨rfl, rfl, rfl⟩, rfl, rfl⟩
  · exact .inl ⟨⟨rfl, rfl, rfl⟩, rfl, rfl⟩

/-- What every move of the waits keeps, every step keeps. -/
theorem step_keeps_of_moves {P : State → Prop} (hP : ∀ {s t : State}, P s → s.Moves t → P t) {s t : State}
    (hs : P s) (h : step s = .next t) : P t := by
  obtain hk | ⟨u, v, hk, hm, ⟨hk', -⟩ | he⟩ := step_moves h
  · exact hP hs (.kept hk)
  · exact hP (hP (hP hs (.kept hk)) hm) (.kept hk')
  · exact hP (hP (hP hs (.kept hk)) hm) (.edge he)

/-! ### The compares are armed where they may be, and where they must be -/

/-- The compares being placed, the stop compare is not armed on a quiet bus. -/
theorem State.Placed.stop_unarmed {s : State} (h : s.Placed) (hq : s.rx.state.Quiet) : s.stopCmp.armed = false := by
  refine Bool.eq_false_iff.mpr fun hs => ?_
  obtain hd | he | hl := h.stop_open hs
  · exact RxState.InCycle.not_quiet (.inl hd) hq
  · exact RxState.InCycle.not_quiet (.inr he) hq
  · obtain hq | hq := hq <;> cases hl.symm.trans hq

theorem State.Placed.not_quiet {s : State} (h : s.Placed) (hs : s.stopCmp.armed = true) : ¬s.rx.state.Quiet :=
  fun hq => by simp [h.stop_unarmed hq] at hs

/-- And the period compare is not armed while the stop compare is. -/
theorem State.Placed.period_unarmed {s : State} (h : s.Placed) (hs : s.stopCmp.armed = true) :
    s.periodCmp.armed = false :=
  Bool.eq_false_iff.mpr fun hp => h.not_quiet hs (h.period_quiet hp)

theorem State.Placed.moves {s t : State} (h : s.Placed) (hm : s.Moves t) : t.Placed := by
  cases hm
  case kept hk =>
    exact ⟨by rw [hk.stopCmp, hk.rx]; exact h.stop_open, by rw [hk.periodCmp, hk.rx]; exact h.period_quiet⟩
  case scheduled hk =>
    refine ⟨by rw [hk.stopCmp, hk.state]; exact h.stop_open, ?_⟩
    rw [hk.state]
    obtain ⟨hp, -⟩ | ⟨hq, -⟩ := hk.periodCmp
    · rw [hp]; exact h.period_quiet
    · exact fun _ => hq
  case edge he =>
    refine ⟨fun _ => he.inCycle.imp_right .inl, fun hp => ?_⟩
    obtain ⟨hsame, hq⟩ := he.periodCmp hp
    exact absurd (h.period_quiet (hsame ▸ hp)) hq
  case window hw => exact ⟨by simp [hw.stopCmp], fun _ => .inr hw.state⟩
  case low hdue hstate _ hperiod => exact ⟨fun _ => .inr (.inr hstate), by simp [hperiod, h.period_unarmed hdue]⟩
  case failure hdue _ hstop hperiod => exact ⟨by simp [hstop], by simp [hperiod, h.period_unarmed hdue]⟩
  case stopDisarmed hstate hk hstop _ => exact ⟨by simp [hstop], fun _ => by rw [hk.rx]; exact hstate⟩
  case periodDisarmed hk hstop hperiod => exact ⟨by rw [hstop, hk.rx]; exact h.stop_open, by simp [hperiod]⟩
  case retried hstate _ hk _ hstop _ =>
    exact ⟨by rw [hstop, hk.rx]; exact h.stop_open, fun _ => by rw [hk.rx]; exact hstate⟩
  case idle hfrom hstate _ hstop => exact ⟨by simp [hstop, h.stop_unarmed hfrom], fun _ => .inl hstate⟩
  case reset hstop hperiod => exact ⟨by simp [hstop], by simp [hperiod]⟩

/-- Where the stop compare and what it is set by are kept, only the period compare is left to time. -/
theorem State.Timed.of_period {s t : State} (h : s.Timed) (hs : t.rx.state = s.rx.state)
    (he : t.rx.lastEdge = s.rx.lastEdge) (hc : t.stopCmp = s.stopCmp)
    (hw : s.rx.state = .interFrameIdle → t.periodCmp.armed = true)
    (hp : t.rx.pendingTx = true → s.rx.state = .idle → t.periodCmp.armed = true) : t.Timed := by
  constructor <;> rw [hs]
  · rw [hc, he]; exact h.open_stop
  · rw [hc, he]; exact h.low_stop
  · exact hw
  · exact hp

theorem State.Timed.moves {s t : State} (h : s.Timed) (hm : s.Moves t) : t.Timed := by
  cases hm
  case kept hk =>
    refine h.of_period (by rw [hk.rx]) (by rw [hk.rx]) hk.stopCmp ?_ ?_ <;> rw [hk.periodCmp]
    · exact h.window_period
    · rw [hk.rx]; exact h.pending_period
  case scheduled hk =>
    refine h.of_period hk.state hk.lastEdge hk.stopCmp (fun hs => ?_) (fun hwaits hs => ?_)
    · obtain ⟨hp, -⟩ | ⟨-, hp⟩ := hk.periodCmp
      · rw [hp]; exact h.window_period hs
      · exact hp
    · obtain ⟨-, hno | hq⟩ | ⟨-, hp⟩ := hk.periodCmp
      · simp [hwaits] at hno
      · exact absurd (.inl hs) hq
      · exact hp
  case edge he =>
    exact ⟨fun _ => he.stopCmp, fun hs => absurd hs he.inCycle.ne_low,
      fun hs => absurd (.inr hs) he.inCycle.not_quiet, fun _ hs => absurd (.inl hs) he.inCycle.not_quiet⟩
  case window hw => constructor <;> simp [hw.state, hw.periodCmp, RxState.decoding]
  case low hstate hstop _ => constructor <;> simp [hstate, hstop, RxState.decoding]
  case failure hstate _ _ => constructor <;> simp [hstate, RxState.decoding]
  case stopDisarmed hstate hk _ hperiod =>
    constructor <;> rw [hk.rx]
    · exact fun hc => absurd hstate (RxState.InCycle.not_quiet hc)
    · intro hs; obtain hq | hq := hstate <;> cases hs.symm.trans hq
    · rw [hperiod]; exact h.window_period
    · rw [hperiod]; exact h.pending_period
  case periodDisarmed hstate hk hstop _ =>
    exact h.of_period (by rw [hk.rx]) (by rw [hk.rx]) hstop (fun hs => absurd (.inr hs) hstate)
      fun _ hs => absurd (.inl hs) hstate
  case retried hk _ hstop hperiod =>
    exact h.of_period (by rw [hk.rx]) (by rw [hk.rx]) hstop (by simp [hperiod]) (by simp [hperiod])
  case idle hstate hpending _ => constructor <;> simp [hstate, hpending, RxState.decoding]
  case reset hstate hpending _ _ => obtain hs | hs := hstate <;> constructor <;> simp [hs, hpending, RxState.decoding]

/-- Settles O59: no move misplaces a compare, and what may take effect has its compare armed. -/
theorem everyStepKeepsTheComparesPlaced : Obligations.EveryStepKeepsTheComparesPlaced := by
  refine fun s h => ⟨fun t hstep => step_keeps_of_moves State.Placed.moves h hstep, fun i u hf => ?_⟩
  obtain ⟨hk, ha⟩ := fetch_op_keepsWaits hf
  refine ⟨?_, ?_⟩ <;> rintro rfl
  · have hs := h.stop_open (hk.stopCmp ▸ (stop_due_of_allowed ha).1)
    refine ⟨?_, ?_, ?_⟩ <;> intro hr <;> simp [hr, RxState.decoding] at hs
  · exact h.period_quiet (hk.periodCmp ▸ (period_due_of_allowed ha).1)

/-! ### And late enough (R194) -/

theorem State.WaitsOut.keepsWaits {s t : State} (h : s.WaitsOut) (hk : s.KeepsWaits t) : t.WaitsOut := by
  rw [State.WaitsOut, hk.rx, hk.periodCmp, hk.settleEnd]; exact h

theorem State.AcceptsEdge.waitsOut {s t : State} (h : s.AcceptsEdge t) : t.WaitsOut :=
  waitsOut_of_not_window fun hs => h.inCycle.not_quiet (.inr hs)

theorem State.WaitsOut.moves {s t : State} (h : s.WaitsOut) (hm : s.Moves t) (hr : t.recentReference) :
    t.WaitsOut := by
  cases hm
  case kept hk => exact h.keepsWaits hk
  case scheduled hk => exact hk.waitsOut hr
  case edge he => exact he.waitsOut
  case window hw => exact hw.waitsOut hr
  case stopDisarmed hk _ hperiod => rw [State.WaitsOut, hk.rx, hperiod, hk.settleEnd]; exact h
  case periodDisarmed hstate hk _ _ => exact waitsOut_of_not_window fun hs => hstate (.inr (by rw [← hs, hk.rx]))
  case retried hdue hk hnow _ hperiod =>
    intro hs hp
    rw [hk.rx] at hs hp
    obtain ⟨hlong, -⟩ := hr
    have hover := wait_nonpos (hdue ▸ h hs hp)
    rw [hk.settleEnd, hnow] at hlong
    rw [hperiod, hk.settleEnd]
    exact retry_not_before hlong (by omega)
  case low hstate _ _ | failure hstate _ _ | idle hstate _ _ => exact waitsOut_of_not_window (by simp [hstate])
  case reset hpending _ _ => exact waitsOut_of_not_pending hpending

/-- Settles O41: every move keeps the waits timed; a retry is set at a match, which waited the settling time out, and
any other wait is set by the scheduler, for the end of the settling time. -/
theorem everyStepKeepsTheWaitsTimed : Obligations.EveryStepKeepsTheWaitsTimed := by
  refine ⟨fun s t h hstep => step_keeps_of_moves State.Timed.moves h hstep, fun s t h hstep hr => ?_,
    fun s u h hf hs hp => ?_⟩
  · obtain hk | ⟨u, v, hk, hm, ⟨hk', hnow⟩ | he⟩ := step_moves hstep
    · exact h.keepsWaits hk
    · have hv : v.recentReference := by
        rw [State.recentReference, ← hk'.settleEnd, ← hnow]; exact hr
      exact ((h.keepsWaits hk).moves hm hv).keepsWaits hk'
    · exact he.waitsOut
  · obtain ⟨hk, ha⟩ := fetch_op_keepsWaits hf
    have hwait : 0 ≤ (u.nowUs - u.settleEnd).toInt := by
      rw [← (period_due_of_allowed ha).2]
      exact h.keepsWaits hk (by rw [hk.rx, hs]) (by rw [hk.rx, hp])
    exact ⟨hwait, (settled_iff u).mpr (.inl (wait_nonpos hwait))⟩

end Sys2Proof.Machine
end

section
/-! What edges, stop matches and query matches do in each receiver state, and `REQ_STATUS` (42_receiver.md R140 to
R168). -/

namespace Sys2Proof.Machine

open Sys2Proof

/-! ### Edges that are not timed (R142, R143, R151, R152) -/

theorem rxEdge_of_quiet {s : State} (h : s.rx.state.Quiet) (c : Word) :
    rxEdge c true s = startEdge (acceptEdge c s) := by
  obtain h | h := h <;> simp [rxEdge, h]

/-- An edge back to the level a state waits in has no effect (R143). -/
theorem rxEdge_of_ignored {s : State} {level : Level}
    (h : (level = false ∧ s.rx.state.Quiet) ∨
      (level = true ∧ (s.rx.state = .low ∨ s.rx.state = .failure))) (c : Word) : rxEdge c level s = s := by
  obtain ⟨rfl, h | h⟩ | ⟨rfl, h | h⟩ := h <;> simp [rxEdge, h]

theorem rxEdge_of_errorInFrame {s : State} (h : s.rx.state = .errorInFrame) (c : Word) (level : Level) :
    rxEdge c level s = acceptEdge c s := by
  simp [rxEdge, h]

theorem rxEdge_of_recovery {s : State} (h : s.rx.state = .low ∨ s.rx.state = .failure) (c : Word) :
    rxEdge c false s = recover (acceptEdge c s) := by
  obtain h | h := h <;> simp [rxEdge, h]

/-- Settles O29: the edge is accepted and starts a frame. -/
theorem startEdgeBeginsAFrame : Obligations.StartEdgeBeginsAFrame :=
  fun _ c h => congrArg Host.Outcome.next (rxEdge_of_quiet h c)

/-- Settles O30: the edge has no effect, or is accepted and nothing else. -/
theorem edgesThatDecodeNothing : Obligations.EdgesThatDecodeNothing :=
  fun _ c level => ⟨fun h => congrArg Host.Outcome.next (rxEdge_of_ignored h c),
    fun h => congrArg Host.Outcome.next (rxEdge_of_errorInFrame h c level)⟩

/-- Settles O35: the edge is accepted, and the recovery reported. -/
theorem risingEdgeReportsRecovery : Obligations.RisingEdgeReportsRecovery :=
  fun _ c h => congrArg Host.Outcome.next (rxEdge_of_recovery h c)

/-! ### Timed edges (R144 to R148) -/

theorem startBitStartEdge_of_other {ec : Int} (h : ¬(325 ≤ ec ∧ ec ≤ 508)) (s : State) :
    startBitStartEdge ec s = rxError .errorReceiveStartTiming s := if_neg (mt (inWindow_wBegin ec).mp h)

theorem insideEdge_of_other {ec : Int} (hhalf : ¬(325 ≤ ec ∧ ec ≤ 508)) (hfull : ¬(658 ≤ ec ∧ ec ≤ 1008))
    (s : State) : insideEdge ec s = rxError .errorReceiveDataTiming s := by
  rw [insideEdge, if_neg (mt (inWindow_wHalf ec).mp hhalf), if_neg (mt (inWindow_wFull ec).mp hfull)]

theorem dataBitStartEdge_of_other {ec : Int} (h : ¬(325 ≤ ec ∧ ec ≤ 508)) (s : State) :
    dataBitStartEdge ec s = rxError .errorReceiveDataTiming s := if_neg (mt (inWindow_wHalf ec).mp h)

theorem rxEdge_of_startBitStart {s : State} (h : s.rx.state = .startBitStart) (c : Word) (level : Level) :
    rxEdge c level s = startBitStartEdge (spelledElapsed s c level) (acceptEdge c s) := by
  simp [rxEdge, h, correctedElapsed_eq]

theorem rxEdge_of_dataBitStart {s : State} (h : s.rx.state = .dataBitStart) (c : Word) (level : Level) :
    rxEdge c level s = dataBitStartEdge (spelledElapsed s c level) (acceptEdge c s) := by
  simp [rxEdge, h, correctedElapsed_eq]

/-- Settles O31: inside the begin window, and outside. -/
theorem startBitEdgeIsTimed : Obligations.StartBitEdgeIsTimed := by
  intro s c level h
  have he := rxEdge_of_startBitStart h c level
  exact ⟨fun hw => congrArg Host.Outcome.next (he.trans (startBitStartEdge_of_half hw _)),
    fun hw => congrArg Host.Outcome.next (he.trans (startBitStartEdge_of_other hw _))⟩

/-- Settles O32: inside each of the two windows, and outside both. -/
theorem insideEdgeIsTimed : Obligations.InsideEdgeIsTimed := by
  intro s c level h
  have he := rxEdge_of_midCell h c level
  rw [correctedElapsed_eq] at he
  exact ⟨fun hw => congrArg Host.Outcome.next (he.trans (insideEdge_of_half hw _)),
    fun hw => congrArg Host.Outcome.next (he.trans (insideEdge_of_full hw _)),
    fun hw hw' => congrArg Host.Outcome.next (he.trans (insideEdge_of_other hw hw' _))⟩

/-- Settles O33: inside the half window, and outside. -/
theorem boundaryEdgeIsTimed : Obligations.BoundaryEdgeIsTimed := by
  intro s c level h
  have he := rxEdge_of_dataBitStart h c level
  exact ⟨fun hw => congrArg Host.Outcome.next (he.trans (dataBitStartEdge_of_half hw _)),
    fun hw => congrArg Host.Outcome.next (he.trans (dataBitStartEdge_of_other hw _))⟩

/-! ### Captured bits and errors (R149, R150) -/

/-- Settles O34: by the two ends of a captured bit (`captureBit_cases`), and the frame in progress is not marked
`twice`. -/
theorem bitsAccumulateAndErrorsQueueTheFrame : Obligations.BitsAccumulateAndErrorsQueueTheFrame := by
  refine fun s b st => ⟨fun hl => ?_, fun hl => ?_, rfl, fun hinv => ?_⟩
  · obtain ⟨hfull, -⟩ | ⟨-, hc⟩ := captureBit_cases b s
    · omega
    · rw [hc]; cases b <;> rfl
  · obtain ⟨-, hc⟩ | ⟨hroom, -⟩ := captureBit_cases b s
    · exact hc
    · omega
  · rw [rxError_q, ← hinv.frame_twice]

/-! ### Stop matches (R160 to R164) -/

theorem rxStopbitMatch_of_closing {s : State}
    (h : s.rx.state = .errorInFrame ∨ s.rx.state = .low ∨ s.rx.state = .failure) (hl : s.lineActive = false) :
    rxStopbitMatch s = closeOut { s with stopCmp.armed := false } := by
  obtain h | h | h := h <;> simp [rxStopbitMatch, h, hl]

theorem rxStopbitMatch_of_quiet {s : State} (h : s.rx.state.Quiet) (hl : s.lineActive = false) :
    rxStopbitMatch s = { s with stopCmp.armed := false } := by
  obtain h | h := h <;> simp [rxStopbitMatch, h, hl]

theorem rxStopbitMatch_of_active {s : State} (h : s.rx.state ≠ .low) (h' : s.rx.state ≠ .failure)
    (hl : s.lineActive = true) : rxStopbitMatch s = enterLow { s with stopCmp.armed := false } := by
  cases hs : s.rx.state
  case low => exact absurd hs h
  case failure => exact absurd hs h'
  all_goals simp [rxStopbitMatch, hs, hl]

theorem rxStopbitMatch_of_low {s : State} (h : s.rx.state = .low) (hl : s.lineActive = true) :
    rxStopbitMatch s = busFailure { s with stopCmp.armed := false } := by
  simp [rxStopbitMatch, h, hl]

theorem rxStopbitMatch_of_failure {s : State} (h : s.rx.state = .failure) (hl : s.lineActive = true) :
    rxStopbitMatch s = { s with stopCmp.armed := false } := by
  simp [rxStopbitMatch, h, hl]

/-- The test whether a frame repeats the one before it, as one comparison (R161). -/
theorem isTwice_eq (p : Params) (prev : Prev) (f : RxFrame) : isTwice p prev f =
    (prev.valid && decide (prev.length = f.length ∧ prev.data = f.data ∧
      (f.timestamp - prev.timestamp).toNat ≤ p.maxTwiceDelayMs)) := by
  simp [isTwice, Bool.and_assoc]

/-- Settles O36: the match completes the frame. -/
theorem stopMatchCompletesTheFrame : Obligations.StopMatchCompletesTheFrame := by
  refine fun s h hl => ⟨completedFrame s, ?_, congrArg Host.Outcome.next (rxStopbitMatch_of_decoding h hl)⟩
  rw [completedFrame, isTwice_eq]

/-- Settles O37: the match closes the cycle, or only disarms its compare. -/
theorem stopMatchClosesOutWithoutAFrame : Obligations.StopMatchClosesOutWithoutAFrame :=
  fun _ hl => ⟨fun h => congrArg Host.Outcome.next (rxStopbitMatch_of_closing h hl),
    fun h => congrArg Host.Outcome.next (rxStopbitMatch_of_quiet h hl)⟩

/-- Settles O38: the match enters `Low`. -/
theorem stopMatchWithTheLineActiveEntersLow : Obligations.StopMatchWithTheLineActiveEntersLow :=
  fun _ h h' hl => congrArg Host.Outcome.next (rxStopbitMatch_of_active h h' hl)

/-- Settles O39: the match reports in `Low`, and only disarms its compare in `Failure`. -/
theorem busFailureIsReportedOnce : Obligations.BusFailureIsReportedOnce :=
  fun _ hl => ⟨fun h => congrArg Host.Outcome.next (rxStopbitMatch_of_low h hl),
    fun h => congrArg Host.Outcome.next (rxStopbitMatch_of_failure h hl)⟩

/-! ### Timeouts (R166, R168) -/

theorem rxQueryMatch_of_quiet {s : State} (h : s.rx.state.Quiet) :
    rxQueryMatch s = report .timeout { s with queryCmp.armed := false } := by
  obtain h | h := h <;> simp [rxQueryMatch, h]

theorem rxQueryMatch_of_not_quiet {s : State} (h : s.rx.state ≠ .idle) (h' : s.rx.state ≠ .interFrameIdle) :
    rxQueryMatch s = { s with queryCmp.armed := false } := by
  cases hs : s.rx.state
  case idle => exact absurd hs h
  case interFrameIdle => exact absurd hs h'
  all_goals simp [rxQueryMatch, hs]

/-- Settles O40: by the states of a quiet bus, and by the one test of `REQ_STATUS`. -/
theorem timeoutIsReportedOnAQuietBus : Obligations.TimeoutIsReportedOnAQuietBus :=
  fun _ => ⟨fun h => congrArg Host.Outcome.next (rxQueryMatch_of_quiet h),
    fun h h' => congrArg Host.Outcome.next (rxQueryMatch_of_not_quiet h h'),
    fun h => congrArg Host.Outcome.next (if_pos h), fun h => congrArg Host.Outcome.next (if_neg h)⟩

end Sys2Proof.Machine
end

section
/-! What the scheduler does, when it arms the period compare, and when a transmission starts (43_scheduler.md R190 to
R198). -/

namespace Sys2Proof.Machine

open Sys2Proof

/-! ### Scheduling, case by case (R191, R193) -/

theorem settleEnd_eq (s : State) : s.settleEnd =
    (if s.tx.kind = .backward then s.rx.lastFullFrame else s.rx.lastEdge) +
      BitVec.ofNat 32 (settleTime s.tx.kind s.tx.prio) := by
  rw [State.settleEnd, refEdge_eq]

/-- A transmission is left waiting, with the period compare armed for it. -/
def awaitPeriod (c : Word) (s : State) : State := { s with rx.pendingTx := true, periodCmp := ⟨true, c⟩ }

theorem startOrRetry_of_stopped {s : State} (hr : s.tx.running = false) : startOrRetry s = txStart s :=
  if_neg (by simp [hr])

theorem startOrRetry_of_running {s : State} (hr : s.tx.running = true) :
    startOrRetry s = awaitPeriod (s.nowUs + 100) s := if_pos hr

theorem rxScheduleTransmission_of_idle {s : State} (hs : s.rx.state = .idle) :
    rxScheduleTransmission s = startOrRetry s := by
  simp [rxScheduleTransmission, hs]

theorem rxScheduleTransmission_of_settled {s : State} (hs : s.rx.state = .interFrameIdle) (h : s.settled = true) :
    rxScheduleTransmission s = startOrRetry { s with rx.endIfi := s.settleEnd } := by
  simp [rxScheduleTransmission, hs, scheduleInWindow, h]

theorem rxScheduleTransmission_of_unsettled {s : State} (hs : s.rx.state = .interFrameIdle)
    (h : s.settled = false) :
    rxScheduleTransmission s = awaitPeriod (clamp s.nowUs s.settleEnd) { s with rx.endIfi := s.settleEnd } := by
  simp [rxScheduleTransmission, hs, scheduleInWindow, h, awaitPeriod]

theorem rxScheduleTransmission_of_not_quiet {s : State} (h : ¬s.rx.state.Quiet) :
    rxScheduleTransmission s = { s with rx.pendingTx := true } := by
  obtain ⟨hi, hw⟩ := not_or.mp h
  cases hs : s.rx.state
  case idle => exact absurd hs hi
  case interFrameIdle => exact absurd hs hw
  all_goals simp [rxScheduleTransmission, hs]

/-- Settles O43: one equation per case. -/
theorem schedulingFollowsTheReceiver : Obligations.SchedulingFollowsTheReceiver := by
  intro s ref stop d
  have hend : s.settleEnd = stop := settleEnd_eq s
  have hset : s.settled = true ↔ d ≤ 0 ∨ 19500 < d := by rw [settled_iff, hend]
  refine ⟨⟨hend, hset⟩, fun hs hr => ?_, fun hs hr => ?_, fun hs hd hr => ?_, fun hs hd hr => ?_,
    fun hs hpos hmax => ?_, fun hi hw => rxScheduleTransmission_of_not_quiet (not_or.mpr ⟨hi, hw⟩)⟩
  · exact (rxScheduleTransmission_of_idle hs).trans (startOrRetry_of_stopped hr)
  · exact (rxScheduleTransmission_of_idle hs).trans (startOrRetry_of_running hr)
  · rw [← hend]
    exact (rxScheduleTransmission_of_settled hs (hset.mpr hd)).trans (startOrRetry_of_stopped hr)
  · rw [← hend]
    exact (rxScheduleTransmission_of_settled hs (hset.mpr hd)).trans (startOrRetry_of_running hr)
  · have hunset : s.settled = false := Bool.eq_false_iff.mpr (mt hset.mp (by omega))
    rw [rxScheduleTransmission_of_unsettled hs hunset, clamp_eq, hend]
    rfl

/-- A clamped count is no further ahead than a wait of at least 100 µs allows. -/
theorem clamp_le {now c : Word} {m : Int} (hm : 100 ≤ m) (h : (c - now).toInt ≤ m) :
    (clamp now c - now).toInt ≤ m := by
  rw [clamp_eq]
  split
  · rw [add_sub_cancel_left]; exact hm
  · exact h

/-- Settles O49: the wait is armed at the clamped end of the settling time, which is not over. -/
theorem deferredStartWaitsForTheSettlingTime : Obligations.DeferredStartWaitsForTheSettlingTime := by
  intro s hs hset
  have hwait : ¬((s.settleEnd - s.nowUs).toInt ≤ 0 ∨ 19500 < (s.settleEnd - s.nowUs).toInt) := by
    rw [← settled_iff, hset]; exact Bool.false_ne_true
  exact ⟨_, rxScheduleTransmission_of_unsettled hs hset, clamp_not_before (by omega),
    clamp_le (by decide) (by omega), clamp_ahead ..⟩

/-! ### The settling window (R190, R197) -/

theorem scheduleSettlingTimeout_of_waiting {s : State} (hp : s.rx.pendingTx = true) :
    scheduleSettlingTimeout s = rxScheduleTransmission (openWindow s) := if_pos hp

theorem repeatPending_iff {s : State} (hp : s.rx.pendingTx = false) :
    s.repeatPending = true ↔ s.tx.armed = true ∧ s.tx.rep ≠ 0 := by
  simp [State.repeatPending, hp, Nat.pos_iff_ne_zero, ← BitVec.toNat_inj]

theorem scheduleSettlingTimeout_of_repeat {s : State} (hp : s.rx.pendingTx = false) (h : s.repeatPending = true) :
    scheduleSettlingTimeout s =
      rxScheduleTransmission { openWindow s with tx := { s.tx with rep := s.tx.rep - 1 } } := by
  simp [scheduleSettlingTimeout, hp, h]

theorem scheduleSettlingTimeout_of_none {s : State} (hp : s.rx.pendingTx = false) (h : s.repeatPending = false) :
    scheduleSettlingTimeout s = openWindow s := by
  simp [scheduleSettlingTimeout, hp, h]

theorem scheduleSettlingTimeout_state (s : State) : (scheduleSettlingTimeout s).rx.state = .interFrameIdle := by
  obtain ⟨-, h⟩ | ⟨-, h⟩ | ⟨-, -, -, h⟩ := scheduleSettlingTimeout_cases s <;> rw [h]
  · rfl
  all_goals exact (rxScheduleTransmission_schedules _).state

/-- Settles O45: a transmission waits, or a repeat is left, or neither. -/
theorem closeOutOpensTheSettlingWindow : Obligations.CloseOutOpensTheSettlingWindow := by
  refine fun s => ⟨scheduleSettlingTimeout_state s, scheduleSettlingTimeout_of_waiting, fun hp ha hrep => ?_,
    fun hp hno => ?_⟩
  · exact scheduleSettlingTimeout_of_repeat hp ((repeatPending_iff hp).mpr ⟨ha, hrep⟩)
  · refine scheduleSettlingTimeout_of_none hp (Bool.eq_false_iff.mpr fun h => ?_)
    obtain ⟨ha, hrep⟩ := (repeatPending_iff hp).mp h
    exact hno.elim (by simp [ha]) hrep

/-! ### RX_PERIOD_MATCH (R195) -/

theorem rxPeriodMatch_of_waiting {s : State} (hq : s.rx.state.Quiet) (hp : s.rx.pendingTx = true) :
    rxPeriodMatch s = servePending { s with periodCmp.armed := false } := by
  obtain hs | hs := hq <;> simp [rxPeriodMatch, hs, hp]

theorem rxPeriodMatch_of_window {s : State} (hs : s.rx.state = .interFrameIdle) (hp : s.rx.pendingTx = false) :
    rxPeriodMatch s = { s with periodCmp.armed := false, rx.state := .idle } := by
  simp [rxPeriodMatch, hs, hp]

theorem rxPeriodMatch_of_rest {s : State}
    (h : ¬s.rx.state.Quiet ∨ (s.rx.state = .idle ∧ s.rx.pendingTx = false)) :
    rxPeriodMatch s = { s with periodCmp.armed := false } := by
  obtain hq | ⟨hs, hp⟩ := h
  · obtain ⟨hi, hw⟩ := not_or.mp hq
    cases hs : s.rx.state
    case idle => exact absurd hs hi
    case interFrameIdle => exact absurd hs hw
    all_goals simp [rxPeriodMatch, hs]
  · simp [rxPeriodMatch, hs, hp]

/-- Settles O46: a transmission waits on a quiet bus, or the settling window is over, or neither. -/
theorem periodMatchFollowsItsRule : Obligations.PeriodMatchFollowsItsRule := by
  refine fun s => ⟨fun hq hp hr => ?_, fun hq hp hr => ?_,
    fun hs hp => congrArg Host.Outcome.next (rxPeriodMatch_of_window hs hp),
    fun h => congrArg Host.Outcome.next (rxPeriodMatch_of_rest h)⟩ <;>
    refine congrArg Host.Outcome.next ((rxPeriodMatch_of_waiting hq hp).trans ?_)
  · exact if_neg (by simp [hr])
  · exact if_pos hr

/-- A period match serves what waits on a quiet bus, or it disarms the compare and touches no transmission. -/
theorem rxPeriodMatch_cases (s : State) :
    (s.rx.state.Quiet ∧ s.rx.pendingTx = true ∧
      rxPeriodMatch s = servePending { s with periodCmp.armed := false }) ∨
    ((rxPeriodMatch s).periodCmp.armed = false ∧ (rxPeriodMatch s).tx = s.tx) := by
  cases hp : s.rx.pendingTx
  · right
    by_cases hs : s.rx.state = .interFrameIdle
    · rw [rxPeriodMatch_of_window hs hp]; exact ⟨rfl, rfl⟩
    · rw [rxPeriodMatch_of_rest (by tauto)]; exact ⟨rfl, rfl⟩
  · by_cases hq : s.rx.state.Quiet
    · exact .inl ⟨hq, rfl, rxPeriodMatch_of_waiting hq hp⟩
    · rw [rxPeriodMatch_of_rest (.inl hq)]; exact .inr ⟨rfl, rfl⟩

/-! ### What asking the scheduler comes to -/

/-- The table is started, or tried again 100 µs later. -/
theorem startOrRetry_cases (s : State) : (s.tx.running = false ∧ startOrRetry s = txStart s) ∨
    ∃ c, 100 ≤ (c - s.nowUs).toInt ∧ startOrRetry s = awaitPeriod c s := by
  cases hr : s.tx.running
  · exact .inl ⟨rfl, startOrRetry_of_stopped hr⟩
  · refine .inr ⟨_, ?_, startOrRetry_of_running hr⟩
    rw [add_sub_cancel_left]
    decide

/-- The scheduler starts the table on a quiet bus whose settling time is over, or leaves the transmission waiting with
the period compare at least 100 µs ahead, or leaves it to the close-out (R191, R192). -/
theorem rxScheduleTransmission_outcomes (s : State) : ∃ e,
    (s.tx.running = false ∧ (s.rx.state = .idle ∨ (s.rx.state = .interFrameIdle ∧ s.settled = true)) ∧
      rxScheduleTransmission s = txStart { s with rx.endIfi := e }) ∨
    (∃ c, 100 ≤ (c - s.nowUs).toInt ∧ rxScheduleTransmission s = awaitPeriod c { s with rx.endIfi := e }) ∨
    rxScheduleTransmission s = { s with rx.pendingTx := true } := by
  by_cases hi : s.rx.state = .idle
  · refine ⟨s.rx.endIfi, ?_⟩
    rw [rxScheduleTransmission_of_idle hi]
    obtain ⟨hr, h⟩ | h := startOrRetry_cases s
    · exact .inl ⟨hr, .inl hi, h⟩
    · exact .inr (.inl h)
  by_cases hw : s.rx.state = .interFrameIdle
  · refine ⟨s.settleEnd, ?_⟩
    cases hset : s.settled
    · exact .inr (.inl ⟨_, clamp_ahead .., rxScheduleTransmission_of_unsettled hw hset⟩)
    · rw [rxScheduleTransmission_of_settled hw hset]
      obtain ⟨hr, h⟩ | h := startOrRetry_cases { s with rx.endIfi := s.settleEnd }
      · exact .inl ⟨hr, .inr ⟨hw, rfl⟩, h⟩
      · exact .inr (.inl h)
  · exact ⟨0, .inr (.inr (rxScheduleTransmission_of_not_quiet (not_or.mpr ⟨hi, hw⟩)))⟩

/-- A stop match ends with the line idle in a settling window, or does not touch the transmitter and the period
compare (R160). -/
theorem rxStopbitMatch_window_cases (s : State) :
    ∃ u, (u.tx = s.tx ∧ u.periodCmp = s.periodCmp ∧ u.nowUs = s.nowUs) ∧
      (rxStopbitMatch s = u ∨ (s.lineActive = false ∧ rxStopbitMatch s = scheduleSettlingTimeout u)) := by
  unfold rxStopbitMatch
  dsimp only
  split <;> split
  case h_1.isFalse hl | h_2.isFalse hl | h_3.isFalse hl | h_4.isFalse hl | h_5.isFalse hl | h_6.isFalse hl |
      h_7.isFalse hl =>
    refine ⟨_, ?_, .inr ⟨Bool.eq_false_iff.mpr hl, rfl⟩⟩
    exact ⟨rfl, rfl, rfl⟩
  all_goals
    refine ⟨_, ?_, .inl rfl⟩
    exact ⟨rfl, rfl, rfl⟩

/-- A `SEND` arms a table it has built and asks the scheduler, or it writes neither `tx.running` nor the period compare;
building a table does not write `tx.running` either (R104). -/
theorem send_cases (kind : KindField) (prio : BitVec 4) (length rep : BitVec 8) (data : Word) (s : State) :
    (∃ k p t, t.running = s.tx.running ∧ send kind prio length rep data s = armAndSchedule k p rep t s) ∨
    ((send kind prio length rep data s).tx.running = s.tx.running ∧
      (send kind prio length rep data s).periodCmp = s.periodCmp) := by
  unfold send
  split
  · exact .inr ⟨rfl, rfl⟩
  · split
    · exact .inr ⟨rfl, rfl⟩
    · split
      · exact .inr ⟨rfl, rfl⟩
      · next t ht => exact .inl ⟨_, _, t, by rw [show t = _ from builtFrom_encodeFrame ht], rfl⟩

/-- A `SEQ_EXECUTE` does so for the table that was made by hand (R115). -/
theorem seqExecute_cases (s : State) :
    seqExecute s = armAndSchedule .sequence 0 0 s.tx s ∨
      ((seqExecute s).tx.running = s.tx.running ∧ (seqExecute s).periodCmp = s.periodCmp) := by
  unfold seqExecute
  split
  · exact .inr ⟨rfl, rfl⟩
  · exact .inl rfl

/-! ### The period compare is armed ahead (R192) -/

/-- `t` has the period compare of `s`, or not armed, or armed at least 100 µs ahead. -/
def State.ArmsAhead (s t : State) : Prop :=
  t.periodCmp = s.periodCmp ∨ t.periodCmp.armed = false ∨ 100 ≤ (t.periodCmp.count - s.nowUs).toInt

/-- What a state with the period compare and the time of `s` arms ahead, `s` does. -/
theorem State.ArmsAhead.of_same {s u t : State} (h : u.ArmsAhead t) (hp : u.periodCmp = s.periodCmp)
    (hn : u.nowUs = s.nowUs) : s.ArmsAhead t := by
  unfold State.ArmsAhead at *; rwa [hp, hn] at h

theorem rxScheduleTransmission_armsAhead (s : State) : s.ArmsAhead (rxScheduleTransmission s) := by
  obtain ⟨e, ⟨-, -, h⟩ | ⟨c, hc, h⟩ | h⟩ := rxScheduleTransmission_outcomes s <;> rw [h]
  · exact .inl rfl
  · exact .inr (.inr hc)
  · exact .inl rfl

/-- A window is opened with the period compare ahead, and what is scheduled in it leaves it ahead. -/
theorem scheduleSettlingTimeout_armsAhead (s : State) : s.ArmsAhead (scheduleSettlingTimeout s) := by
  have hopen : 100 ≤ ((openWindow s).periodCmp.count - s.nowUs).toInt := by
    simpa only [openWindow_periodCmp] using clamp_ahead s.nowUs (s.rx.lastEdge + BitVec.ofNat 32 settleMax)
  have hthen {u : State} (hp : u.periodCmp = (openWindow s).periodCmp) (hn : u.nowUs = s.nowUs) :
      s.ArmsAhead (rxScheduleTransmission u) := by
    obtain h | h | h := rxScheduleTransmission_armsAhead u
    · exact .inr (.inr (by rwa [h, hp]))
    · exact .inr (.inl h)
    · exact .inr (.inr (hn ▸ h))
  obtain ⟨-, h⟩ | ⟨-, h⟩ | ⟨-, -, -, h⟩ := scheduleSettlingTimeout_cases s <;> rw [h]
  · exact .inr (.inr hopen)
  · exact hthen rfl rfl
  · exact hthen rfl rfl

theorem armAndSchedule_armsAhead (k : FrameKind) (prio : Fin 8) (rep : BitVec 8) (t : Tx) (s : State) :
    s.ArmsAhead (armAndSchedule k prio rep t s) := (rxScheduleTransmission_armsAhead _).of_same rfl rfl

theorem servePending_armsAhead (s : State) : s.ArmsAhead (servePending s) := by
  unfold servePending
  split
  · refine .inr (.inr ?_)
    rw [armRetry_periodCmp, add_sub_cancel_left]
    decide
  · exact .inl rfl

theorem rxPeriodMatch_armsAhead (s : State) : s.ArmsAhead (rxPeriodMatch s) := by
  obtain ⟨-, -, h⟩ | ⟨hoff, -⟩ := rxPeriodMatch_cases s
  · rw [h]
    obtain h | h := servePending_armsAhead { s with periodCmp.armed := false }
    · exact .inr (.inl (by rw [h]))
    · exact .inr h
  · exact .inr (.inl hoff)

theorem rxStopbitMatch_armsAhead (s : State) : s.ArmsAhead (rxStopbitMatch s) := by
  obtain ⟨u, ⟨-, hp, hn⟩, h | ⟨-, h⟩⟩ := rxStopbitMatch_window_cases s <;> rw [h]
  · exact .inl hp
  · exact (scheduleSettlingTimeout_armsAhead u).of_same hp hn

theorem rxEdge_armsAhead (c : Word) (level : Level) (s : State) : s.ArmsAhead (rxEdge c level s) := by
  obtain h | h := rxEdge_cases c level s
  · exact .inl (by rw [h])
  · cases ha : (rxEdge c level s).periodCmp.armed
    · exact .inr (.inl ha)
    · exact .inl (h.periodCmp ha).1

/-- Every operation leaves the period compare as it was, or not armed, or armed ahead. -/
theorem exec_armsAhead {i : Instr} {s t : State} (he : exec i s = .next t) : s.ArmsAhead t := by
  cases i
  case seqStart => exact .inl (exec_construct_keepsWaits (.inl rfl) he).periodCmp
  case seqNext p => exact .inl (exec_construct_keepsWaits (.inr ⟨p, rfl⟩) he).periodCmp
  case reqStatus => exact .inl (exec_ask_keepsWaits (.inl rfl) he).periodCmp
  case tryReceive => exact .inl (exec_ask_keepsWaits (.inr (.inl rfl)) he).periodCmp
  case isTxIdle => exact .inl (exec_ask_keepsWaits (.inr (.inr rfl)) he).periodCmp
  all_goals cases he
  case send kind prio length rep data =>
    obtain ⟨k, p, t, -, h⟩ | ⟨-, h⟩ := send_cases kind prio length rep data s
    · rw [h]; exact armAndSchedule_armsAhead ..
    · exact .inl h
  case seqExecute =>
    obtain h | ⟨-, h⟩ := seqExecute_cases s
    · rw [h]; exact armAndSchedule_armsAhead ..
    · exact .inl h
  case rxEdge => exact rxEdge_armsAhead ..
  case rxStopbitMatch => exact rxStopbitMatch_armsAhead s
  case rxPeriodMatch => exact rxPeriodMatch_armsAhead s
  case rxQueryMatch => exact .inl (rxQueryMatch_keepsWaits s).periodCmp
  case txMatch => exact .inl (txMatch_keepsWaits s).periodCmp
  case reset => exact .inr (.inl (by unfold reset; dsimp only; split <;> rfl))

/-- Settles O47: an operation that changes the compare and leaves it armed arms it ahead. -/
theorem periodCompareIsNeverArmedTooSoon : Obligations.PeriodCompareIsNeverArmedTooSoon := by
  refine ⟨clamp_eq, fun i s t he harmed hchanged => ?_⟩
  obtain h | h | h := exec_armsAhead he
  · exact absurd h hchanged
  · simp [h] at harmed
  · exact h

/-! ### When a transmission starts (R191, R194, R195, R198) -/

/-- A transmission is at its start, and none waits. -/
structure State.JustStarted (t : State) : Prop where
  index : t.tx.index = 0
  t0 : t.tx.t0 = t.nowUs
  line : t.tx.line = true
  pendingTx : t.rx.pendingTx = false

/-- `t` has a transmission just started that the scheduler was asked for in `s`, in `Idle` or in a settling window
whose settling time is over. -/
structure State.StartsSettled (s t : State) : Prop where
  started : t.JustStarted
  settled : s.rx.state = .idle ∨ (s.rx.state = .interFrameIdle ∧ t.settled = true)

theorem rxScheduleTransmission_startsSettled {s : State} (hr : s.tx.running = false)
    (h : (rxScheduleTransmission s).tx.running = true) : s.StartsSettled (rxScheduleTransmission s) := by
  obtain ⟨e, ⟨-, hset, hs⟩ | ⟨c, -, hs⟩ | hs⟩ := rxScheduleTransmission_outcomes s <;> rw [hs] at h ⊢
  · exact ⟨⟨rfl, rfl, rfl, rfl⟩, hset⟩
  · exact absurd (hr.symm.trans h) Bool.false_ne_true
  · exact absurd (hr.symm.trans h) Bool.false_ne_true

theorem armAndSchedule_startsSettled {k : FrameKind} {prio : Fin 8} {rep : BitVec 8} {t : Tx} {s : State}
    (hr : t.running = false) (h : (armAndSchedule k prio rep t s).tx.running = true) :
    s.StartsSettled (armAndSchedule k prio rep t s) := by
  obtain ⟨hstart, hset⟩ := rxScheduleTransmission_startsSettled
    (s := { s with tx := { t with building := false, kind := k, prio := prio, rep := rep, armed := true } }) hr h
  exact ⟨hstart, hset⟩

theorem send_startsSettled {kind : KindField} {prio : BitVec 4} {length rep : BitVec 8} {data : Word} {s : State}
    (hr : s.tx.running = false) (h : (send kind prio length rep data s).tx.running = true) :
    s.StartsSettled (send kind prio length rep data s) := by
  obtain ⟨k, p, t, ht, hs⟩ | ⟨hs, -⟩ := send_cases kind prio length rep data s
  · rw [hs] at h ⊢; exact armAndSchedule_startsSettled (ht.trans hr) h
  · rw [hs, hr] at h; cases h

theorem seqExecute_startsSettled {s : State} (hr : s.tx.running = false)
    (h : (seqExecute s).tx.running = true) : s.StartsSettled (seqExecute s) := by
  obtain hs | ⟨hs, -⟩ := seqExecute_cases s
  · rw [hs] at h ⊢; exact armAndSchedule_startsSettled hr h
  · rw [hs, hr] at h; cases h

theorem rxPeriodMatch_starts {s : State} (hr : s.tx.running = false) (h : (rxPeriodMatch s).tx.running = true) :
    (rxPeriodMatch s).JustStarted ∧ s.rx.pendingTx = true ∧ s.rx.state.Quiet := by
  obtain ⟨hq, hp, hs⟩ | ⟨-, hs⟩ := rxPeriodMatch_cases s
  · rw [hs, servePending, if_neg (by simp [hr])]
    exact ⟨⟨rfl, rfl, rfl, rfl⟩, hp, hq⟩
  · rw [hs, hr] at h; cases h

theorem scheduleSettlingTimeout_starts {s : State} (hr : s.tx.running = false)
    (h : (scheduleSettlingTimeout s).tx.running = true) :
    (scheduleSettlingTimeout s).JustStarted ∧ (scheduleSettlingTimeout s).settled = true := by
  have inWindow {u : State} (hw : u.rx.state = .interFrameIdle) (hu : u.tx.running = false)
      (h : (rxScheduleTransmission u).tx.running = true) :
      (rxScheduleTransmission u).JustStarted ∧ (rxScheduleTransmission u).settled = true := by
    obtain ⟨hstart, hi | ⟨-, hset⟩⟩ := rxScheduleTransmission_startsSettled hu h
    · cases hi.symm.trans hw
    · exact ⟨hstart, hset⟩
  obtain ⟨-, hs⟩ | ⟨-, hs⟩ | ⟨-, -, -, hs⟩ := scheduleSettlingTimeout_cases s <;> rw [hs] at h ⊢
  · exact absurd (hr.symm.trans h) Bool.false_ne_true
  · exact inWindow rfl hr h
  · exact inWindow rfl hr h

theorem rxStopbitMatch_starts {s : State} (hr : s.tx.running = false) (h : (rxStopbitMatch s).tx.running = true) :
    (rxStopbitMatch s).JustStarted ∧ s.lineActive = false ∧ (rxStopbitMatch s).rx.state = .interFrameIdle ∧
      (rxStopbitMatch s).settled = true := by
  obtain ⟨u, ⟨htx, -⟩, hs | ⟨hl, hs⟩⟩ := rxStopbitMatch_window_cases s <;> rw [hs] at h ⊢
  · rw [htx, hr] at h; cases h
  · obtain ⟨hstart, hset⟩ := scheduleSettlingTimeout_starts (htx ▸ hr) h
    exact ⟨hstart, hl, scheduleSettlingTimeout_state u, hset⟩

/-- No other operation starts a transmission. -/
theorem exec_not_running {i : Instr} {s t : State} (he : exec i s = .next t) (hr : s.tx.running = false)
    (hperiod : i ≠ .rxPeriodMatch) (hstop : i ≠ .rxStopbitMatch) (hexec : i ≠ .seqExecute)
    (hsend : ∀ kind prio length rep data, i ≠ .send kind prio length rep data) : t.tx.running = false := by
  cases i
  case seqStart => rw [(exec_construct_frame (.inl rfl) he).1.1]; exact hr
  case seqNext p => rw [(exec_construct_frame (.inr ⟨p, rfl⟩) he).1.1]; exact hr
  all_goals cases he
  case send => exact (hsend _ _ _ _ _ rfl).elim
  case seqExecute | rxStopbitMatch | rxPeriodMatch => contradiction
  case txMatch => rw [txMatch, if_neg (by simp [hr])]; exact hr
  case reset => rw [reset_tx]; rfl
  all_goals simpa using hr

/-- Settles O48: of the operations, four can start a transmission, and each does by its own rule. -/
theorem transmissionStartsOnlyWhenSettled : Obligations.TransmissionStartsOnlyWhenSettled := by
  intro i s t he hr ht
  have starts {cause : Prop} (h : t.JustStarted ∧ cause) : t.tx.index = 0 ∧ t.tx.t0 = s.nowUs ∧
      t.tx.line = true ∧ t.rx.pendingTx = false ∧ cause := by
    obtain ⟨⟨hindex, ht0, hline, hpending⟩, hcause⟩ := h
    obtain ⟨-, henv, -⟩ := exec_keeps_outside he
    exact ⟨hindex, by rw [ht0, State.nowUs, State.nowUs, henv], hline, hpending, hcause⟩
  refine starts ?_
  cases i
  case rxPeriodMatch =>
    cases he
    obtain ⟨hstart, hcause⟩ := rxPeriodMatch_starts hr ht
    exact ⟨hstart, .inl ⟨rfl, hcause⟩⟩
  case send =>
    cases he
    obtain ⟨hstart, hset⟩ := send_startsSettled hr ht
    exact ⟨hstart, .inr (.inl ⟨.inr ⟨_, _, _, _, _, rfl⟩, hset⟩)⟩
  case seqExecute =>
    cases he
    obtain ⟨hstart, hset⟩ := seqExecute_startsSettled hr ht
    exact ⟨hstart, .inr (.inl ⟨.inl rfl, hset⟩)⟩
  case rxStopbitMatch =>
    cases he
    obtain ⟨hstart, hcause⟩ := rxStopbitMatch_starts hr ht
    exact ⟨hstart, .inr (.inr ⟨rfl, hcause⟩)⟩
  all_goals simp [exec_not_running he hr nofun nofun nofun nofun] at ht

end Sys2Proof.Machine
end

section
/-! The frame queue: what `enqueue` and `TRY_RECEIVE` do to it, and that no other operation but `RESET` does more than
one `enqueue` (44_frame_queue.md R210 to R216). -/

namespace Sys2Proof.Machine

open Sys2Proof

/-! ### Enqueuing a frame (R211, R212) -/

theorem enqueue_of_room {s : State} (h : s.q.items.length < s.params.queueDepth) (f : RxFrame) :
    enqueue f s = { s with q := ⟨s.q.items ++ [f], s.q.overflow⟩ } := by
  rw [enqueue, FrameQueue.push, if_pos h]

theorem enqueue_of_full {s : State} (h : s.params.queueDepth ≤ s.q.items.length) (f : RxFrame) :
    enqueue f s = { s with q := ⟨s.q.items, true⟩ } := by
  rw [enqueue, FrameQueue.push, if_neg (Nat.not_lt.mpr h)]

/-- Settles O50: with room and without; a report is an `enqueue` by its definition. -/
theorem enqueueAppendsOrDrops : Obligations.EnqueueAppendsOrDrops :=
  fun f _ => ⟨fun h => enqueue_of_room h f, fun h => enqueue_of_full h f, fun _ => rfl⟩

/-! ### TRY_RECEIVE (R214, R215) -/

theorem tryReceive_of_empty {s : State} (h : s.q.items = []) :
    tryReceive s = { s with replies := s.replies ++ [.received false 0] } := by
  simp [tryReceive, h]

theorem tryReceive_of_cons {s : State} {f : RxFrame} {rest : List RxFrame} (h : s.q.items = f :: rest) :
    tryReceive s = { s with
      q := queueAfterPop rest s, replies := s.replies ++ [.received true (frameWord f)] } := by
  simp [tryReceive, h]

theorem queueAfterPop_of_kept {s : State} (h : s.q.overflow = false) (rest : List RxFrame) :
    queueAfterPop rest s = ⟨rest, false⟩ := if_neg (by simp [h])

theorem queueAfterPop_of_dropped {s : State} (h : s.q.overflow = true) (rest : List RxFrame) :
    queueAfterPop rest s = ⟨rest ++ [statusFrame .errorQueueFull s.nowMs], false⟩ := if_pos h

/-- Settles O51: on an empty queue, and by the overflow flag on any other. -/
theorem tryReceivePopsTheOldestFrame : Obligations.TryReceivePopsTheOldestFrame := by
  refine fun s => ⟨fun h => congrArg Host.Outcome.next (tryReceive_of_empty h), fun f rest h ho => ?_,
    fun f rest h ho => ?_⟩ <;>
    refine congrArg Host.Outcome.next ((tryReceive_of_cons h).trans ?_)
  · rw [queueAfterPop_of_kept ho]
  · rw [queueAfterPop_of_dropped ho]; rfl

/-- What stays in the queue after a pop keeps its order, in front of the marker (R215). -/
theorem queueAfterPop_prefix (rest : List RxFrame) (s : State) : rest <+: (queueAfterPop rest s).items := by
  cases h : s.q.overflow
  · rw [queueAfterPop_of_kept h]
  · rw [queueAfterPop_of_dropped h]; exact List.prefix_append ..

/-- `TRY_RECEIVE` removes at most the head (R210, R214). -/
theorem tryReceive_prefix (s : State) : s.q.items.tail <+: (tryReceive s).q.items := by
  cases h : s.q.items with
  | nil => exact List.nil_prefix
  | cons f rest => rw [tryReceive_of_cons h]; exact queueAfterPop_prefix rest s

/-! ### Every other operation (R210, R216) -/

/-- The queue of `t` is that of `s`, or that of `s` after one `enqueue`. -/
def State.EnqueuesAtMostOne (s t : State) : Prop := t.q = s.q ∨ ∃ f, t.q = (enqueue f s).q

/-- An `enqueue` appends a frame or drops it; either way the frames in the queue stay as they are. -/
theorem State.EnqueuesAtMostOne.items {s t : State} (h : s.EnqueuesAtMostOne t) :
    t.q.items = s.q.items ∨ ∃ f, t.q.items = s.q.items ++ [f] := by
  obtain h | ⟨f, h⟩ := h <;> rw [h]
  · exact .inl rfl
  · obtain hroom | hfull := Nat.lt_or_ge s.q.items.length s.params.queueDepth
    · exact .inr ⟨f, by rw [enqueue_of_room hroom]⟩
    · exact .inl (by rw [enqueue_of_full hfull])

theorem report_enqueuesAtMostOne (st : Status) (s : State) : s.EnqueuesAtMostOne (report st s) :=
  .inr ⟨_, report_q st s⟩

/-- A push that overflows reports it (R106). -/
theorem tableOverflow_enqueuesAtMostOne (s : State) : s.EnqueuesAtMostOne (tableOverflow s) :=
  report_enqueuesAtMostOne .errorCanNotProcess s

@[simp] theorem armAndSchedule_q (k : FrameKind) (prio : Fin 8) (rep : BitVec 8) (t : Tx) (s : State) :
    (armAndSchedule k prio rep t s).q = s.q := by
  simp [armAndSchedule]

theorem send_enqueuesAtMostOne (kind : KindField) (prio : BitVec 4) (length rep : BitVec 8) (data : Word)
    (s : State) : s.EnqueuesAtMostOne (send kind prio length rep data s) := by
  unfold send
  split
  · exact report_enqueuesAtMostOne _ s
  · split
    · exact report_enqueuesAtMostOne _ s
    · split
      · exact tableOverflow_enqueuesAtMostOne s
      · exact .inl (armAndSchedule_q ..)

theorem seqStart_enqueuesAtMostOne (s : State) : s.EnqueuesAtMostOne (seqStart s) := by
  unfold seqStart
  split
  · exact report_enqueuesAtMostOne _ s
  · exact .inl rfl

theorem seqNext_enqueuesAtMostOne (p : Word) (s : State) : s.EnqueuesAtMostOne (seqNext p s) := by
  unfold seqNext
  split
  · exact report_enqueuesAtMostOne _ s
  · split
    · exact report_enqueuesAtMostOne _ s
    · split
      · exact tableOverflow_enqueuesAtMostOne s
      · exact .inl rfl

theorem seqExecute_enqueuesAtMostOne (s : State) : s.EnqueuesAtMostOne (seqExecute s) := by
  unfold seqExecute
  split
  · exact report_enqueuesAtMostOne _ s
  · exact .inl (armAndSchedule_q ..)

theorem reqStatus_enqueuesAtMostOne (s : State) : s.EnqueuesAtMostOne (reqStatus s) := by
  unfold reqStatus
  split
  · exact report_enqueuesAtMostOne _ s
  · exact .inl rfl

theorem captureBit_enqueuesAtMostOne (b : Bool) (s : State) : s.EnqueuesAtMostOne (captureBit b s) := by
  obtain ⟨-, h⟩ | ⟨-, h⟩ := captureBit_cases b s <;> rw [h]
  · exact .inr ⟨_, rxError_q _ s⟩
  · exact .inl rfl

theorem startBitStartEdge_enqueuesAtMostOne (ec : Int) (s : State) :
    s.EnqueuesAtMostOne (startBitStartEdge ec s) := by
  unfold startBitStartEdge
  split
  · exact .inl rfl
  · exact .inr ⟨_, rxError_q _ s⟩

theorem insideEdge_enqueuesAtMostOne (ec : Int) (s : State) : s.EnqueuesAtMostOne (insideEdge ec s) := by
  unfold insideEdge
  split
  · exact .inl rfl
  · split
    · exact captureBit_enqueuesAtMostOne _ { s with rx.lastBit := !s.rx.lastBit }
    · exact .inr ⟨_, rxError_q _ s⟩

theorem dataBitStartEdge_enqueuesAtMostOne (ec : Int) (s : State) :
    s.EnqueuesAtMostOne (dataBitStartEdge ec s) := by
  unfold dataBitStartEdge
  split
  · exact captureBit_enqueuesAtMostOne _ s
  · exact .inr ⟨_, rxError_q _ s⟩

/-- An edge queues the frame of a receive error or the report of a recovery (R150, R152). -/
theorem rxEdge_enqueuesAtMostOne (c : Word) (level : Level) (s : State) :
    s.EnqueuesAtMostOne (rxEdge c level s) := by
  unfold rxEdge
  dsimp only
  split
  case h_1 | h_2 => split <;> exact .inl rfl
  case h_3 => exact startBitStartEdge_enqueuesAtMostOne _ (acceptEdge c s)
  case h_4 | h_6 => exact insideEdge_enqueuesAtMostOne _ (acceptEdge c s)
  case h_5 => exact dataBitStartEdge_enqueuesAtMostOne _ (acceptEdge c s)
  case h_7 => exact .inl rfl
  case h_8 | h_9 =>
    split
    · exact .inl rfl
    · exact .inr ⟨_, recover_q (acceptEdge c s)⟩

theorem completeFrame_q (s : State) : (completeFrame s).q = (enqueue (completedFrame s) s).q := by
  simp [completeFrame]

theorem closeOut_q (s : State) : (closeOut s).q = s.q := by
  simp [closeOut]

/-- A stop match queues the frame it completes or the report of a bus failure (R161, R164). -/
theorem rxStopbitMatch_enqueuesAtMostOne (s : State) : s.EnqueuesAtMostOne (rxStopbitMatch s) := by
  unfold rxStopbitMatch
  dsimp only
  split <;> split
  case h_1.isFalse | h_2.isFalse | h_3.isFalse | h_4.isFalse =>
    exact .inr ⟨_, completeFrame_q { s with stopCmp.armed := false }⟩
  case h_5.isFalse | h_6.isFalse | h_7.isFalse => exact .inl (closeOut_q _)
  case h_6.isTrue => exact .inr ⟨_, busFailure_q { s with stopCmp.armed := false }⟩
  all_goals exact .inl rfl

theorem rxQueryMatch_enqueuesAtMostOne (s : State) : s.EnqueuesAtMostOne (rxQueryMatch s) := by
  unfold rxQueryMatch
  split
  case h_1 | h_2 => exact report_enqueuesAtMostOne _ { s with queryCmp.armed := false }
  all_goals exact .inl rfl

@[simp] theorem txMatch_q (s : State) : (txMatch s).q = s.q := by
  unfold txMatch
  split
  · split
    · rfl
    · rw [exhaust, armQuery_eq]
  · rfl

/-- Every operation but `TRY_RECEIVE` and `RESET` does at most one `enqueue` (R216). -/
theorem exec_enqueuesAtMostOne {i : Instr} {s t : State} (he : exec i s = .next t) (hpop : i ≠ .tryReceive)
    (hreset : i ≠ .reset) : s.EnqueuesAtMostOne t := by
  cases i <;> cases he
  case tryReceive | reset => contradiction
  case send => exact send_enqueuesAtMostOne ..
  case seqStart => exact seqStart_enqueuesAtMostOne s
  case seqNext p => exact seqNext_enqueuesAtMostOne p s
  case seqExecute => exact seqExecute_enqueuesAtMostOne s
  case reqStatus => exact reqStatus_enqueuesAtMostOne s
  case isTxIdle => exact .inl rfl
  case rxEdge => exact rxEdge_enqueuesAtMostOne ..
  case rxStopbitMatch => exact rxStopbitMatch_enqueuesAtMostOne s
  case rxPeriodMatch => exact .inl (rxPeriodMatch_periodMatched s).q
  case rxQueryMatch => exact rxQueryMatch_enqueuesAtMostOne s
  case txMatch => exact .inl (txMatch_q s)

/-- Settles O52: the other operations do at most one `enqueue`, and `TRY_RECEIVE` one pop. -/
theorem queuedFramesAreImmutable : Obligations.QueuedFramesAreImmutable := by
  refine fun i s t he => ⟨fun hpop hreset => (exec_enqueuesAtMostOne he hpop hreset).items, ?_⟩
  rintro rfl
  cases he
  exact tryReceive_prefix s

end Sys2Proof.Machine
end

section
/-! The instant of a `RESET` and the steps that cannot be refused (60_exceptions.md R241 step 1, R247). -/

namespace Sys2Proof.Machine

open Sys2Proof

/-! ### RESET comes first -/

/-- An event presented at this instant, whichever entry holds it, is at hand once all that has come is. -/
theorem State.presents.at_hand {s : State} {b : BitVec 6} (h : s.presents b) :
    ∃ e ∈ (presentArrived s).env.presented, e.vec &&& b ≠ 0 := by
  obtain ⟨e, he, hb⟩ | ⟨i, hi, ht, hb⟩ := h
  · exact ⟨e, by simp [he], hb⟩
  · have hne : i.event.vec ≠ 0 := fun h0 => hb (by simp [h0])
    have hcome : i.event ∈ eventsOf (s.env.timeline.filter fun i => decide (i.time ≤ s.env.now)) :=
      List.mem_filter.mpr ⟨List.mem_map_of_mem (List.mem_filter.mpr ⟨hi, by simpa using ht⟩), by simpa using hne⟩
    exact ⟨i.event, by simp [hcome], hb⟩

/-- A `RESET` at hand at the first step of its instant is what is fetched. -/
theorem fetch_of_reset {s : State} (hphase : s.env.phase = .reset)
    (h : ∃ e ∈ s.env.presented, e.vec &&& 0b100000 ≠ 0) : fetch s = .op .reset (takeEvent .reset s) := by
  have bit_five : ∀ v : BitVec 6, v &&& 0b100000 ≠ 0 → v.getLsbD 5 = true := by decide
  obtain ⟨e, he, hb⟩ := h
  have hv : s.eventInput.vec.getLsbD 5 = true := (getLsbD_eventInput s 5).mpr (.inl ⟨e, he, bit_five _ hb⟩)
  have hd : decodeEvt (maskInput s.eventInput s.env.phase.mask) = .ok .reset := by
    simp [decodeEvt, maskInput, hphase, Phase.mask, hv]
  exact (fetch_of_event (.inl hd)).trans (if_pos rfl)

/-- `RESET` disarms the receive compares (R270). -/
theorem reset_compares (s : State) : (reset s).stopCmp = ⟨false, 0⟩ ∧ (reset s).periodCmp = ⟨false, 0⟩ ∧
    (reset s).queryCmp = ⟨false, 0⟩ := by
  unfold reset; dsimp only; split <;> exact ⟨rfl, rfl, rfl⟩

/-- After a `RESET` and the discarding of its instant no channel is due, and no edge is to be handed over. -/
theorem discardInstant_reset_dueVector (s : State) : (discardInstant (reset s)).dueVector = 0 := by
  obtain ⟨hstop, hperiod, hquery⟩ := reset_compares s
  have hedge : (discardInstant (reset s)).edgeDue = false := bne_self_eq_false _
  rw [dueVector_eq_zero_iff]
  exact ⟨hedge, by simp [State.channels, State.txCompare, Compare.due, hstop, hperiod, hquery, Tx.atReset]⟩

/-- Settles O9: the step is `RESET` followed by `discardInstant`. -/
theorem resetDiscardsTheRestOfItsInstant : Obligations.ResetDiscardsTheRestOfItsInstant := by
  intro s hphase h
  let u := takeEvent .reset (presentArrived s)
  have hstep : step s = .next (discardInstant (reset u)) := step_of_op (fetch_of_reset hphase h.at_hand) rfl
  obtain ⟨-, henv, -⟩ := reset_sameOutside u
  refine ⟨_, hstep, rfl, rfl, ?_, discardInstant_reset_dueVector u, ?_, ?_⟩
  · rw [discardInstant_env_timeline, henv, takeEvent_env_timeline, presentArrived_env_timeline]
  · rw [discardInstant_tx, reset_tx]; rfl
  · rw [discardInstant_tx, reset_tx]; rfl

/-! ### No receive match is presented from outside -/

/-- It is a fact about the presented vectors and the timeline alone. -/
theorem State.matchesInternal.congr {s t : State} (h : s.matchesInternal)
    (hp : t.env.presented = s.env.presented) (ht : t.env.timeline = s.env.timeline) : t.matchesInternal := by
  rwa [State.matchesInternal, hp, ht]

theorem State.matchesInternal.presentArrived {s : State} (h : s.matchesInternal) :
    (presentArrived s).matchesInternal := by
  refine ⟨fun e he => ?_, fun i hi => h.2 i (mem_presentArrived_timeline.mp hi).1⟩
  obtain he | ⟨i, hi, -, rfl⟩ := mem_presentArrived he
  · exact h.1 e he
  · exact h.2 i hi

/-- Taking an event adds none. -/
theorem State.matchesInternal.takeEvent {s : State} (h : s.matchesInternal) (i : Instr) :
    (takeEvent i s).matchesInternal := by
  refine ⟨fun x hx => ?_, h.2⟩
  obtain ⟨e, he, hx | hx⟩ := mem_dropEvent hx <;> rw [hx]
  · exact h.1 e he
  · rw [BitVec.and_assoc, BitVec.and_comm (~~~_), ← BitVec.and_assoc, h.1 e he]
    exact BitVec.zero_and

theorem State.matchesInternal.afterOp {t : State} (h : t.matchesInternal) (i : Instr) (s : State) :
    (afterOp i s t).matchesInternal := by
  obtain ⟨-, ha⟩ | ⟨-, -, -, ha⟩ | ⟨-, -, ha⟩ := afterOp_cases i s t <;> rw [ha]
  · exact ⟨by simp, h.2⟩
  · exact h.congr (by simp) (by simp)
  · exact h

/-- Every step keeps it: nothing in a step presents an event or adds to the timeline. -/
theorem State.matchesInternal.step {s t : State} (h : s.matchesInternal) (hstep : step s = .next t) :
    t.matchesInternal := by
  have hp := h.presentArrived
  obtain ⟨i, u, v, hf, he, rfl⟩ | ⟨u, hf, rfl⟩ | ⟨i, -, rfl⟩ | ⟨-, rfl⟩ := step_cases hstep
  · have hu : u.matchesInternal := by
      obtain ⟨-, rfl⟩ | ⟨w, rest, -, -, rfl⟩ := fetch_op_cases hf
      · exact hp.takeEvent i
      · exact hp
    obtain ⟨-, henv, -⟩ := exec_keeps_outside he
    exact (hu.congr (by rw [henv]) (by rw [henv])).afterOp i u
  · obtain ⟨w, rest, e, -, -, rfl⟩ := fetch_noCommand_cases hf
    exact hp
  · exact hp.takeEvent i
  · exact hp

/-! ### Every step answers -/

/-- A receive match in the event vector that is not presented is due. -/
theorem State.matchesInternal.due {s : State} (h : s.matchesInternal) {k : Nat}
    (hk : (0b001110 : BitVec 6).getLsbD k = true) (hv : s.eventInput.vec.getLsbD k = true) :
    s.dueVector.getLsbD k = true := by
  refine ((getLsbD_eventInput s k).mp hv).resolve_left ?_
  rintro ⟨e, he, hb⟩
  exact (and_ne_zero_iff e.vec 0b001110).mpr ⟨k, hk, hb⟩ (h.1 e he)

/-- So an event of the vector may take effect, or it is a `TX_MATCH` that does not occur (41_transmitter.md R118). -/
theorem State.matchesInternal.allowed_or_void {s : State} (h : s.matchesInternal) {i : Instr}
    (hi : eventBit i &&& s.eventInput.vec = eventBit i) : eventAllowed i s = true ∨ matchVoid i s = true := by
  obtain ⟨-, hstop, hperiod, hquery, -, -⟩ := getLsbD_dueVector s
  cases i
  case rxStopbitMatch => exact .inl (hstop.symm.trans (h.due rfl (getLsbD_of_and_eq hi rfl)))
  case rxPeriodMatch => exact .inl (hperiod.symm.trans (h.due rfl (getLsbD_of_and_eq hi rfl)))
  case rxQueryMatch => exact .inl (hquery.symm.trans (h.due rfl (getLsbD_of_and_eq hi rfl)))
  case txMatch => exact .inr rfl
  all_goals exact .inl rfl

/-- Nothing that is fetched is refused. -/
theorem State.matchesInternal.fetch_ne_notDue {s : State} (h : s.matchesInternal) (j : Instr) :
    fetch s ≠ .notDue j := by
  have ev : ∀ i, eventBit i &&& s.eventInput.vec = eventBit i → fetchEvent i s ≠ .notDue j := by
    intro i hi
    obtain ⟨-, hf⟩ | ⟨-, -, hf⟩ | ⟨ha, hv, -⟩ := fetchEvent_cases i s
    · simp [hf]
    · simp [hf]
    · simpa [ha, hv] using h.allowed_or_void hi
  obtain ⟨i, hd, hf⟩ | ⟨-, ⟨w, rest, -, hf⟩ | ⟨-, ⟨i, hd, hf⟩ | ⟨-, hf⟩⟩⟩ := fetch_cases s <;> rw [hf]
  · have hmasked : ∀ v m : BitVec 6, (v &&& m) &&& v = v &&& m := fun v m => by
      rw [BitVec.and_assoc, BitVec.and_comm m, ← BitVec.and_assoc, BitVec.and_self]
    exact ev i (and_eq_trans ((decodeEvt_ok_iff _ i).mp hd).2.1 (hmasked _ _))
  · obtain ⟨i, -, hf⟩ | ⟨-, hf⟩ := fetchCommand_cases w rest s <;> simp [hf]
  · exact ev i ((decodeEvt_ok_iff _ i).mp hd).2.1
  · simp

/-- Every operation has a meaning (R247). -/
theorem exec_answers (i : Instr) (s : State) : ∃ t, exec i s = .next t := by
  cases i <;> exact ⟨_, rfl⟩

/-- A step is refused only for a match that is not due. -/
theorem step_answers {s : State} (h : ∀ j, fetch (presentArrived s) ≠ .notDue j) : ∃ t, step s = .next t := by
  rcases hf : fetch (presentArrived s) with ⟨i, u⟩ | u | u | j | _
  case op =>
    obtain ⟨t, he⟩ := exec_answers i u
    exact ⟨_, step_of_op hf he⟩
  case notDue => exact absurd hf (h j)
  all_goals exact ⟨_, by rw [step, hf]⟩

/-- Settles O11: no fetched match is refused, and no step presents one. -/
theorem everyStepAnswersANextState : Obligations.EveryStepAnswersANextState := by
  intro s h
  obtain ⟨t, ht⟩ := step_answers h.presentArrived.fetch_ne_notDue
  exact ⟨t, ht, h.step ht⟩

end Sys2Proof.Machine
end

section
/-! RESET: the state it leaves (70_reset_and_hazards.md R270). -/

namespace Sys2Proof.Machine

open Sys2Proof

/-- With `tx_line` forced idle only external devices drive the line. -/
theorem resetIdle_lineActive (s : State) : (resetIdle s).lineActive = s.env.ext := by
  simp [State.lineActive]

theorem reset_of_idle {s : State} (h : s.env.ext = false) : reset s = resetIdle s :=
  if_neg (by simp [resetIdle_lineActive, h])

/-- The report finds the queue empty, so there is room for it. -/
theorem reset_of_active {s : State} (h : s.env.ext = true) (hdepth : 0 < s.params.queueDepth) :
    reset s = { resetIdle s with
      rx := { Rx.atReset s.nowUs with state := .failure }
      q := ⟨[statusFrame .systemFailure s.nowMs], false⟩ } :=
  calc reset s = report .systemFailure { resetIdle s with rx.state := .failure } :=
        if_pos ((resetIdle_lineActive s).trans h)
    _ = _ := enqueue_of_room (s := { resetIdle s with rx.state := .failure }) hdepth _

/-- Settles O53: by the level the line has once `tx_line` is idle; what follows a `RESET` is `discardInstant`. -/
theorem resetLeavesTheResetTable : Obligations.ResetLeavesTheResetTable :=
  fun _ => ⟨fun h => congrArg Host.Outcome.next (reset_of_idle h),
    fun h hdepth => congrArg Host.Outcome.next (reset_of_active h hdepth),
    fun _ he => runOp_of_exec he⟩

end Sys2Proof.Machine
end
